-- ==== Sys2Proof/Word.lean ====
section
/-! DEFINITION. The datapath word, the command word and the two-word generator state (00_scope.md R9, R10;
30_encoding.md R61; 10_state.md R20 to R22). Wrapping add, low-half multiply, logical shifts, OR and XOR of
R11 to R15 are BitVec's own `+`, `*`, `<<<`, `>>>`, `|||` and `^^^` on this type. -/

namespace Sys2Proof

/-- A datapath value: an unsigned 64-bit word, bit `i` of weight 2^i (R9, R10). -/
abbrev Word := BitVec 64

/-- A packed command word CMD[66:0] = {imm64, op} (R61). -/
abbrev CmdWord := BitVec 67

/-- The generator state: the registers S0 and S1 (R20, R21). The spec orders no 128-bit packing of the two
(R22), and none is made here. -/
structure Gen where
  s0 : Word
  s1 : Word
deriving DecidableEq, Repr, Inhabited

namespace Gen

/-- S0 = 0 and S1 = 0 together, the zero state (R25). -/
def zero : Gen := ⟨0, 0⟩

/-- XOR of both words: the addition of GF(2) on states (R15, R154). -/
def xor (a b : Gen) : Gen := ⟨a.s0 ^^^ b.s0, a.s1 ^^^ b.s1⟩

end Gen

end Sys2Proof
end

