-- ==== Sys2Proof/Ports.lean ====
section
/-! DEFINITION. The values on the block's ports (30_encoding.md R60), the response register's two states
(10_state.md R30), the response in flight of a BUSY block (R31) and the things that can happen to the block from
outside (one clock edge, or a power loss, 60_exceptions.md R214). -/

namespace Sys2Proof

/-- The input ports as the block sees them at one rising edge of clk (R60). -/
structure PortsIn where
  rst : Bool
  cmdValid : Bool
  cmdOp : BitVec 3
  cmdSeed : Word
  rspReady : Bool
deriving DecidableEq, Repr, Inhabited

/-- Input ports at which the host asks for nothing: no reset, no command, no response accepted. -/
def PortsIn.idle : PortsIn := ⟨false, false, 0, 0, false⟩

/-- The output ports during one cycle (R60). -/
structure PortsOut where
  cmdReady : Bool
  rspValid : Bool
  rspData : Word
  rspErr : Bool
deriving DecidableEq, Repr, Inhabited

/-- The response register RSP: EMPTY, or FULL with data and err (R30). -/
inductive Rsp where
  | empty
  | full (data : Word) (err : Bool)
deriving DecidableEq, Repr, Inhabited

/-- The command of a BUSY block (R31): the response that is due, and how many rising edges lie between the next
edge and the one at which the response enters RSP (0: it enters at the next edge). -/
structure InFlight where
  data : Word
  err : Bool
  edgesLeft : Nat
deriving DecidableEq, Repr, Inhabited

/-- What reaches the block from outside: a rising edge of clk with the port values of its cycle (R60), or a loss of
power without retention (R214). -/
inductive Input where
  | clock (p : PortsIn)
  | powerLoss
deriving DecidableEq, Repr, Inhabited

end Sys2Proof
end

