-- ==== Sys2Proof/Syntax.lean ====
section
/-! DEFINITION. The commands, one constructor per row of spec/opcode_table.json (30_encoding.md R63), and the lines of
the assembler notation (R67, R68), which is no hardware (92_eei_decisions.md D26). -/

namespace Sys2Proof

/-- A command. Every row of the opcode table carries the 64 bits imm64 = CMD[66:3]; only SEED uses them (R64), the
other rows keep them as an operand of their encoding that no meaning reads (assumption log 12). -/
inductive Instr where
  | reserved0 (imm : Word)
  | next (imm : Word)
  | jump (imm : Word)
  | seed (imm : Word)
  | seeddef (imm : Word)
  | qmin (imm : Word)
  | qmax (imm : Word)
  | reserved7 (imm : Word)
deriving DecidableEq, Repr, Inhabited

/-- One line of assembler text (R67, R68). Operands are the integers as written; Sys2Proof/WellFormed.lean says which
the assembler accepts. -/
inductive Asm where
  | next
  | jump
  | seed (imm : Int)
  | seeddef
  | qmin
  | qmax
  | raw (op imm : Int)
  | reset
  | stream (imm k : Int)
  | skip (n : Int)
  | illegal
deriving DecidableEq, Repr, Inhabited

end Sys2Proof
end

