-- ==== Sys2Proof/Decode.lean ====
section
/-! DEFINITION. The opcode map (30_encoding.md R63) read both ways: `decode`, total on all 2^67 command words (R66), and
`encode` (R61), and the response word (R62). The block has no bytes and no fetch (20_memory.md R41, R48), so a decoder's input is one whole
command word. -/

namespace Sys2Proof

/-- The field op = CMD[2:0] (R61). -/
def cmdOpField (w : CmdWord) : BitVec 3 := w.extractLsb' 0 3

/-- The field imm64 = CMD[66:3], taken whole (R61, R64). -/
def cmdImmField (w : CmdWord) : Word := w.extractLsb' 3 64

/-- The opcode map of R63, by the bits op[2], op[1], op[0]. -/
def decodeFields (op : BitVec 3) (imm : Word) : Instr :=
  match op.getLsbD 2, op.getLsbD 1, op.getLsbD 0 with
  | false, false, false => .reserved0 imm
  | false, false, true => .next imm
  | false, true, false => .jump imm
  | false, true, true => .seed imm
  | true, false, false => .seeddef imm
  | true, false, true => .qmin imm
  | true, true, false => .qmax imm
  | true, true, true => .reserved7 imm

/-- The command a command word names: total (R66). -/
def decode (w : CmdWord) : Instr := decodeFields (cmdOpField w) (cmdImmField w)

/-- The op value of a command's row (R63). -/
def Instr.op : Instr → BitVec 3
  | .reserved0 _ => 0b000
  | .next _ => 0b001
  | .jump _ => 0b010
  | .seed _ => 0b011
  | .seeddef _ => 0b100
  | .qmin _ => 0b101
  | .qmax _ => 0b110
  | .reserved7 _ => 0b111

/-- The imm64 bits of a command. -/
def Instr.imm : Instr → Word
  | .reserved0 v => v
  | .next v => v
  | .jump v => v
  | .seed v => v
  | .seeddef v => v
  | .qmin v => v
  | .qmax v => v
  | .reserved7 v => v

/-- {imm64, op}, with imm64 in the more significant position (R61, R10). -/
def packCommand (op : BitVec 3) (imm : Word) : CmdWord := imm ++ op

/-- The command word of a command (R61, R63). -/
def encode (i : Instr) : CmdWord := packCommand i.op i.imm

/-- The command word on the command port (R61): cmd_op and cmd_seed. -/
def PortsIn.cmdWord (p : PortsIn) : CmdWord := packCommand p.cmdOp p.cmdSeed

/-- The response word RSPW[64:0] = {err, data} (R62): data in bits 63:0, err in bit 64. -/
def responseWord (data : Word) (err : Bool) : BitVec 65 := BitVec.ofBool err ++ data

/-- The response word on the response port (R62): rsp_data and rsp_err. -/
def PortsOut.rspWord (o : PortsOut) : BitVec 65 := responseWord o.rspData o.rspErr

/-- Why a number names no command. -/
inductive DecodeReject where
  /-- The number has a bit above 66: no command word does (R61). -/
  | widerThanCommandWord
deriving DecidableEq, Repr

/-- Decode a number as a command word; only a number of more than 67 bits is rejected. -/
def decodeNumber (n : Nat) : Except DecodeReject Instr :=
  if n < 2 ^ 67 then .ok (decode (BitVec.ofNat 67 n)) else .error .widerThanCommandWord

/-- The opcode table's row bits `w`, given `nbits` of them; every bit above is 0. -/
def tableNumber (nbits w : Nat) : Nat := w % 2 ^ nbits

/-- What the decoder reads from an instruction given in the opcode table's numbering (bit 0 is CMD[0]). -/
def decodeTableWord (nbits w : Nat) : Option Instr :=
  match decodeNumber (tableNumber nbits w) with
  | .ok i => some i
  | .error _ => none

end Sys2Proof
end

