-- ==== Sys2Proof/Config.lean ====
section
/-! DEFINITION. What an implementation fixes (the latencies of 70_reset_and_hazards.md R266) and the free values:
port and register values the spec leaves unspecified (R262, 10_state.md R35). A free value is an opaque constant
applied to the plain counter `draws` of State; nothing in Lean can evaluate it. -/

namespace Sys2Proof

/-- The OPEN latency parameters of R266, each stored as the cycles BEYOND THE FIRST (L − 1), so that every value of this
type is a legal one (L ≥ 1, finite). -/
structure Latencies where
  extraNext : Nat
  extraJump : Nat
  extraSeed : Nat
  extraQuery : Nat
  extraIllegal : Nat
deriving DecidableEq, Repr, Inhabited

/-- Every latency 1 cycle, the value the trace of 95_test_vectors.md §2.9 uses as its example. DESIGN CHOICE
(assumption log 3): the spec fixes no latency. -/
def Latencies.oneCycle : Latencies := ⟨0, 0, 0, 0, 0⟩

namespace Config

/-- rsp_data while rsp_valid = 0: any value (R262). -/
opaque idleRspData : Nat → Word

/-- rsp_err while rsp_valid = 0: any value (R262). -/
opaque idleRspErr : Nat → Bool

/-- S0 and S1 after a power loss, before the next reset: unspecified (R35, R214). -/
opaque powerOnGen : Nat → Gen

/-- RSP after a power loss, before the next reset: unspecified (R35, R214). -/
opaque powerOnRsp : Nat → Rsp

/-- IDLE/BUSY after a power loss, before the next reset: unspecified (R35, R214). -/
opaque powerOnBusy : Nat → Option InFlight

end Config

end Sys2Proof
end

