-- ==== Sys2Proof/Machine/Constants.lean ====
section
/-! DEFINITION. The hardwired constants (10_state.md R26 to R28, 40_splitmix64.md R101). No command or reset changes them.
They are used as the document writes them; it has no second copy to audit them against (assumption log 15). -/

namespace Sys2Proof.Machine

/-- JUMP0 (R26). -/
def jump0 : Word := 0xBEAC0467EBA5FACB

/-- JUMP1 (R26). -/
def jump1 : Word := 0xD86B048B86AA9922

/-- DEFAULT_SEED, 2^64 − 42 (R27). -/
def defaultSeed : Word := 0xFFFFFFFFFFFFFFD6

/-- MIN_VALUE (R28). -/
def minValue : Word := 0x0000000000000000

/-- MAX_VALUE (R28). -/
def maxValue : Word := 0xFFFFFFFFFFFFFFFF

/-- The SplitMix64 increment γ (R101). -/
def golden : Word := 0x9E3779B97F4A7C15

/-- The first SplitMix64 multiplier M1 (R101). -/
def splitMixMul1 : Word := 0xBF58476D1CE4E5B9

/-- The second SplitMix64 multiplier M2 (R101). -/
def splitMixMul2 : Word := 0x94D049BB133111EB

end Sys2Proof.Machine
end

