-- ==== Sys2Proof/Machine/Operands.lean ====
section
/-! DEFINITION. Operand forms: the seed operand of the construction commands (30_encoding.md R64), and the one composite
word operation of the datapath, rotation by a constant (00_scope.md R14). No other command has an operand. -/

namespace Sys2Proof.Machine

/-- rotate_left(x, k) = (x << k) | (x >> (64−k)) for a constant k in [1, 63]; the block uses 55 and 36 (R14). -/
def rotateLeft (x : Word) (k : Nat) : Word := (x <<< k) ||| (x >>> (64 - k))

/-- The SEED operand: imm64 taken whole, not extended, scaled or shifted (R64). -/
def seedOperand (imm : Word) : Word := imm

/-- The operand of SEEDDEF: DEFAULT_SEED, whatever imm64 holds (R64, R112). -/
def seeddefOperand (_imm : Word) : Word := defaultSeed

end Sys2Proof.Machine
end

