-- ==== Sys2Proof/Machine/Generator.lean ====
section
/-! DEFINITION. The pure function Next (42_generate_next.md R130) and its state part T (R137). -/

namespace Sys2Proof.Machine

/-- Next(S0, S1) = ((S0', S1'), result): the output is the sum BEFORE the update, and the new s1 = S1 XOR S0 feeds both
new words (R130). -/
def generateNext (g : Gen) : Gen × Word :=
  let result := g.s0 + g.s1
  let t := g.s1 ^^^ g.s0
  (⟨rotateLeft g.s0 55 ^^^ t ^^^ (t <<< 14), rotateLeft t 36⟩, result)

/-- The value `k x`, computed with `x` already a number: `forceWord x k = k x` (Laws/Generator.lean). It is no hardware; it keeps
an evaluation by Lean's kernel from carrying 128 unevaluated Nexts along, and stops it at once where `x` is not known. -/
def forceWord {α : Type} (x : Word) (k : Word → α) : α :=
  match x.toNat with
  | 0 => k (BitVec.ofNat 64 0)
  | n + 1 => k (BitVec.ofNat 64 (n + 1))

/-- `forceWord` for both words of a state: `forceGen g k = k g`. -/
def forceGen {α : Type} (g : Gen) (k : Gen → α) : α :=
  forceWord g.s0 fun a => forceWord g.s1 fun b => k ⟨a, b⟩

/-- T, the map on states that one Next performs, ignoring its output (R137). -/
def advance (g : Gen) : Gen := (generateNext g).1

/-- The output of one Next (R130). -/
def nextOutput (g : Gen) : Word := (generateNext g).2

end Sys2Proof.Machine
end

