-- ==== Sys2Proof/Machine/JumpAheadEngine.lean ====
section
/-! DEFINITION. The sub-block `jump_ahead_engine`: the pure function JumpAhead (43_jump_ahead.md R150, R152). -/

namespace Sys2Proof.Machine

/-- The temporaries of R150: the accumulators (accum0, accum1) and the working state (s0, s1). They live inside one
command and are not architectural (10_state.md R32). -/
structure JumpEngine where
  accum : Gen
  work : Gen
deriving DecidableEq, Repr

/-- One iteration: test the bit and, if it is set, XOR the working state into the accumulators; then call Next once and
discard its output (R150, R152). -/
def jumpIteration (c : Word) (e : JumpEngine) (bit : Nat) : JumpEngine :=
  { accum := if c.getLsbD bit then e.accum.xor e.work else e.accum
    work := advance e.work }

/-- `for bit in 0..63`, low to high, for one constant (R150). -/
def jumpWord (e : JumpEngine) (c : Word) : JumpEngine := (List.range 64).foldl (jumpIteration c) e

/-- JumpAhead: JUMP0 first, then JUMP1, from zero accumulators; the result is the accumulator value (R150, R152). -/
@[irreducible] def jumpAhead (g : Gen) : Gen := forceGen g fun g => ([jump0, jump1].foldl jumpWord ⟨Gen.zero, g⟩).accum

end Sys2Proof.Machine
end

