-- ==== Sys2Proof/Machine/Splitmix64Seeder.lean ====
section
/-! DEFINITION. The sub-block `splitmix64_seeder`: the SplitMix64 step, a pure function reached only through construction
(40_splitmix64.md R100 to R104). -/

namespace Sys2Proof.Machine

/-- The mixing function of R100, from w' to out. Adds and multiplies wrap and shifts fill with zeros (R103). -/
def splitMix64Mix (w : Word) : Word :=
  let z1 := (w ^^^ (w >>> 30)) * splitMixMul1
  let z2 := (z1 ^^^ (z1 >>> 27)) * splitMixMul2
  z2 ^^^ (z2 >>> 31)

/-- SplitMix64Step(w) = (w', out) (R100). -/
def splitMix64Step (w : Word) : Word × Word :=
  let w' := w + golden
  (w', splitMix64Mix w')

end Sys2Proof.Machine
end

