-- ==== Sys2Proof/Machine/Construction.lean ====
section
/-! DEFINITION. The pure function Construct: seed → SplitMix64 expansion → jump-ahead (41_construction.md R110;
90_conflicts.md C2: S0 is seed + γ before the jump, not the raw seed). -/

namespace Sys2Proof.Machine

/-- The state after construction steps 1 and 2: (seed + γ, SplitMix64 output) (R110). -/
def preJump (seed : Word) : Gen :=
  let step := splitMix64Step seed
  ⟨step.1, step.2⟩

/-- Construct(seed) (R110). `forceWord` is the evaluation aid of Machine/Generator.lean: it changes nothing. -/
def construct (seed : Word) : Gen := forceWord seed fun seed => jumpAhead (preJump seed)

/-- Stream k of a seed: JumpAhead^k(Construct(seed)) (43_jump_ahead.md R156). -/
def streamState (seed : Word) : Nat → Gen
  | 0 => construct seed
  | k + 1 => jumpAhead (streamState seed k)

end Sys2Proof.Machine
end

