-- ==== Sys2Proof/Machine/State.lean ====
section
/-! DEFINITION. The state of one instance of the block (10_state.md R20 to R35), its reset value, and why a step can stop. -/

namespace Sys2Proof.Machine

/-- Why the machine stops. -/
inductive Fault where
  /-- Raised by an accepting clock edge (Machine/Edge.lean) and by every meaning (Machine/Ops.lean, `command`) for a command
  issued before the first reset after power-on: "A model treats a command before the first reset as a fault"
  (70_reset_and_hazards.md R254, 10_state.md R35). Safe: the hardware goes on in some unspecified way. -/
  | commandBeforeReset
deriving DecidableEq, Repr

/-- Why an instruction has no meaning. Nothing in this model raises one. -/
inductive Refusal where
  /-- For an arm of exec that has no meaning yet; no arm is such. Safe. -/
  | notModelled (mnemonic : String)
deriving DecidableEq, Repr

/-- One instance of the block. -/
structure State where
  /-- S0 and S1 (R20, R21). -/
  gen : Gen
  /-- The response register RSP (R30). -/
  rsp : Rsp
  /-- `none`: IDLE. `some f`: BUSY with a command whose response is due (R31). -/
  busy : Option InFlight
  /-- Whether a reset has happened since power-on (R35, R254). -/
  resetDone : Bool
  /-- The latency parameters, constants of the implementation (R266). No step changes them. -/
  lat : Latencies
  /-- The model's own: the sticky mark "an IllegalCommand response was produced" (R201). Not hardware state. -/
  illegalMark : Bool
  /-- The model's own: what the host and the power supply do from here on, the next thing first. When the list is empty
  the host drives nothing. -/
  inputs : List Input
  /-- The model's own: the number of steps so far, which selects the free values of Config. -/
  draws : Nat
deriving DecidableEq, Repr

/-- The machine right after reset (R34): the default-constructed generator, computed from rule R110 as R34 asks, RSP
EMPTY and IDLE. The last four fields are the model's (assumption log 1, 3, 4, 7). -/
def State.reset : State where
  gen := construct defaultSeed
  rsp := .empty
  busy := none
  resetDone := true
  lat := Latencies.oneCycle
  illegalMark := false
  inputs := []
  draws := 0

end Sys2Proof.Machine
end

