-- ==== Sys2Proof/Machine/Flags.lean ====
section
/-! DEFINITION. The status bits. The block has no flag register (10_state.md R33); its one per-command status bit is rsp_err
(30_encoding.md R62, R65; 60_exceptions.md R201), and its handshake shows cmd_ready and rsp_valid
(70_reset_and_hazards.md R261, R262). -/

namespace Sys2Proof.Machine

/-- rsp_err of every defined command (R200). -/
def errNone : Bool := false

/-- rsp_err as the cause code ILLEGAL_COMMAND (R201). -/
def errIllegalCommand : Bool := true

/-- RSP is FULL. -/
def rspIsFull : Rsp → Bool
  | .empty => false
  | .full _ _ => true

/-- cmd_ready = 1 exactly when rst = 0, the block is IDLE and RSP is EMPTY (R261). -/
def State.cmdReady (s : State) (rst : Bool) : Bool := !rst && s.busy.isNone && !rspIsFull s.rsp

/-- rsp_valid = 1 while RSP is FULL (R262), and 0 while rst = 1 (R250; assumption log 9). -/
def State.rspValid (s : State) (rst : Bool) : Bool := !rst && rspIsFull s.rsp

end Sys2Proof.Machine
end

