-- ==== Sys2Proof/Machine/Ops.lean ====
section
/-! DEFINITION. The named operations over State that the meanings and the clock edge share. -/

namespace Sys2Proof.Machine

/-- Go on with `f` from a next state; a fault or a refusal stays. -/
def mapNext (o : Host.Outcome State Fault Refusal) (f : State → State) : Host.Outcome State Fault Refusal :=
  match o with
  | .next s => .next (f s)
  | .fault r => .fault r
  | .refused r => .refused r

/-- (S0, S1) <- g. -/
def State.setGen (s : State) (g : Gen) : State := { s with gen := g }

/-- respond(data, err): place the command's single response in RSP (00_scope.md R16, 10_state.md R30). -/
def State.respond (s : State) (data : Word) (err : Bool) : State := { s with rsp := .full data err }

/-- `raise IllegalCommand`, the block's only error action: S0 and S1 unchanged, respond(0, 1), and the model's sticky mark
(60_exceptions.md R201). It saves nothing, changes no mode and transfers no control, and there is no return from it
(R205, R206). -/
def State.raiseIllegalCommand (s : State) : State :=
  { s.respond 0x0000000000000000 errIllegalCommand with illegalMark := true }

/-- The frame of every command: after a reset it has its effect, before the first reset it is a fault (R35, R254). -/
def command (s : State) (effect : State → State) : Host.Outcome State Fault Refusal :=
  if s.resetDone then .next (effect s) else .fault .commandBeforeReset

/-- A rising edge with rst = 1 (70_reset_and_hazards.md R250, R253): S0 and S1 take the reset values, RSP becomes EMPTY, the
command in flight is abandoned. Nothing else changes. -/
def State.applyReset (s : State) : State :=
  { s with gen := construct defaultSeed, rsp := .empty, busy := none, resetDone := true }

/-- The host accepts the response: RSP becomes EMPTY (R263). -/
def State.acceptResponse (s : State) : State := { s with rsp := .empty }

/-- Hold a fresh response back for `extra` = L − 1 edges after the accepting one (R266): with L = 1 the accepting edge itself
loads RSP; else the block is BUSY until edge e_(k+L−1) (R31). -/
def State.holdResponse (s : State) (extra : Nat) : State :=
  match extra, s.rsp with
  | 0, _ => s
  | _ + 1, .empty => s
  | n + 1, .full data err => { s with rsp := .empty, busy := some ⟨data, err, n⟩ }

/-- One edge of a BUSY block: the response enters RSP when its edge has come, else one edge fewer is left (R31, R266). -/
def State.advanceBusy (s : State) (f : InFlight) : State :=
  match f.edgesLeft with
  | 0 => { s with rsp := .full f.data f.err, busy := none }
  | n + 1 => { s with busy := some { f with edgesLeft := n } }

/-- The step has used the first input; a fresh draw selects the free values from here on. -/
def State.tick (s : State) : State := { s with inputs := s.inputs.tail, draws := s.draws + 1 }

/-- A power loss without retention: back to the unspecified power-on state (R214, R35). -/
def State.losePower (s : State) : State :=
  { s with
    gen := Config.powerOnGen s.draws
    rsp := Config.powerOnRsp s.draws
    busy := Config.powerOnBusy s.draws
    resetDone := false }

end Sys2Proof.Machine
end

