-- ==== Sys2Proof/Machine/GenerateNext.lean ====
section
/-! DEFINITION. The meanings of NEXT, QMIN and QMAX (42_generate_next.md). -/

namespace Sys2Proof.Machine

/-- NEXT: (S0, S1, result) <- Next(S0, S1); respond(result, 0) (R131). -/
def execNext (_imm : Word) (s : State) : Host.Outcome State Fault Refusal :=
  command s fun s => (s.setGen (generateNext s.gen).1).respond (generateNext s.gen).2 errNone

/-- QMIN: respond(MIN_VALUE, 0) (R134). -/
def execQmin (_imm : Word) (s : State) : Host.Outcome State Fault Refusal :=
  command s fun s => s.respond minValue errNone

/-- QMAX: respond(MAX_VALUE, 0) (R135). -/
def execQmax (_imm : Word) (s : State) : Host.Outcome State Fault Refusal :=
  command s fun s => s.respond maxValue errNone

end Sys2Proof.Machine
end

