-- ==== Sys2Proof/Machine/Illegal.lean ====
section
/-! DEFINITION. The meanings of the two reserved opcodes: each raises IllegalCommand, which is an error response and no stop
(60_exceptions.md R201). -/

namespace Sys2Proof.Machine

/-- op = 000 (R201). -/
def execReserved0 (_imm : Word) (s : State) : Host.Outcome State Fault Refusal :=
  command s State.raiseIllegalCommand

/-- op = 111 (R201). -/
def execReserved7 (_imm : Word) (s : State) : Host.Outcome State Fault Refusal :=
  command s State.raiseIllegalCommand

end Sys2Proof.Machine
end

