-- ==== Sys2Proof/Machine/Jump.lean ====
section
/-! DEFINITION. The meaning of JUMP (43_jump_ahead.md). It is no control transfer (R158). -/

namespace Sys2Proof.Machine

/-- JUMP: (S0, S1) <- JumpAhead(S0, S1); respond(0, 0) (R151). -/
def execJump (_imm : Word) (s : State) : Host.Outcome State Fault Refusal :=
  command s fun s => (s.setGen (jumpAhead s.gen)).respond 0x0000000000000000 errNone

end Sys2Proof.Machine
end

