-- ==== Sys2Proof/Machine/Seeding.lean ====
section
/-! DEFINITION. The meanings of SEED and SEEDDEF (41_construction.md). -/

namespace Sys2Proof.Machine

/-- SEED seed: (S0, S1) <- Construct(seed); respond(0, 0) (R111). -/
def execSeed (imm : Word) (s : State) : Host.Outcome State Fault Refusal :=
  command s fun s => (s.setGen (construct (seedOperand imm))).respond 0x0000000000000000 errNone

/-- SEEDDEF: (S0, S1) <- Construct(DEFAULT_SEED); respond(0, 0) (R112). -/
def execSeeddef (imm : Word) (s : State) : Host.Outcome State Fault Refusal :=
  command s fun s => (s.setGen (construct (seeddefOperand imm))).respond 0x0000000000000000 errNone

end Sys2Proof.Machine
end

