-- ==== Sys2Proof/Machine/Dispatch.lean ====
section
/-! DEFINITION. One arm per command (30_encoding.md R63). `exec i s` is the whole atomic effect of command i (20_memory.md
R43): the new S0 and S1, and the response in RSP. -/

namespace Sys2Proof.Machine

def exec (i : Instr) (s : State) : Host.Outcome State Fault Refusal :=
  match i with
  | .reserved0 imm => Sys2Proof.Machine.execReserved0 imm s
  | .next imm => Sys2Proof.Machine.execNext imm s
  | .jump imm => Sys2Proof.Machine.execJump imm s
  | .seed imm => Sys2Proof.Machine.execSeed imm s
  | .seeddef imm => Sys2Proof.Machine.execSeeddef imm s
  | .qmin imm => Sys2Proof.Machine.execQmin imm s
  | .qmax imm => Sys2Proof.Machine.execQmax imm s
  | .reserved7 imm => Sys2Proof.Machine.execReserved7 imm s

end Sys2Proof.Machine
end

