-- ==== Sys2Proof/Machine/Edge.lean ====
section
/-! DEFINITION. One rising edge of clk (70_reset_and_hazards.md R250 to R266), and what the output ports show in the cycle
before it. -/

namespace Sys2Proof.Machine

/-- L − 1 for the latency parameter of a command's kind (R266). -/
def latencyExtra (lat : Latencies) : Instr → Nat
  | .reserved0 _ => lat.extraIllegal
  | .next _ => lat.extraNext
  | .jump _ => lat.extraJump
  | .seed _ => lat.extraSeed
  | .seeddef _ => lat.extraSeed
  | .qmin _ => lat.extraQuery
  | .qmax _ => lat.extraQuery
  | .reserved7 _ => lat.extraIllegal

/-- The latency L of a command, a finite number of cycles, at least 1 (R266). -/
def latencyCycles (lat : Latencies) (i : Instr) : Nat := latencyExtra lat i + 1

/-- An accepted command: its atomic effect, with its response held back for its latency (R43, R266; assumption log 2). -/
def acceptCommand (i : Instr) (s : State) : Host.Outcome State Fault Refusal :=
  mapNext (exec i s) fun t => t.holdResponse (latencyExtra s.lat i)

/-- A rising edge of clk with the port values `p`. Reset wins (60_exceptions.md R204); a command before the first reset is a
fault (R254); a BUSY block goes on with its command; a FULL RSP waits for the host (R263, R264); an IDLE block with RSP
EMPTY accepts an offered command (R260, R261); otherwise everything is held (R214). -/
def clockEdge (p : PortsIn) (s : State) : Host.Outcome State Fault Refusal :=
  if p.rst then .next s.applyReset
  else if s.resetDone then
    match s.busy, s.rsp with
    | some f, _ => .next (s.advanceBusy f)
    | none, .full _ _ => .next (if p.rspReady then s.acceptResponse else s)
    | none, .empty => if p.cmdValid then acceptCommand (decode p.cmdWord) s else .next s
  else if p.cmdValid then .fault .commandBeforeReset
  else .next s

/-- The port values the host drives in the current cycle; none at all when nothing is left in `inputs` or the power goes. -/
def currentPorts (s : State) : PortsIn :=
  match s.inputs with
  | [] => PortsIn.idle
  | .clock p :: _ => p
  | .powerLoss :: _ => PortsIn.idle

/-- The output ports (30_encoding.md R60) while the host drives `rst`. Before the first reset they have no value (R254). While
rsp_valid = 0, rsp_data and rsp_err are free values (R262). -/
def outputPorts (s : State) (rst : Bool) : Option PortsOut :=
  if s.resetDone then
    some
      { cmdReady := s.cmdReady rst
        rspValid := s.rspValid rst
        rspData := match rst, s.rsp with
          | false, .full data _ => data
          | _, _ => Config.idleRspData s.draws
        rspErr := match rst, s.rsp with
          | false, .full _ err => err
          | _, _ => Config.idleRspErr s.draws }
  else none

/-- Event 1 of R204: a reset edge. -/
def resetEvent (p : PortsIn) : Bool := p.rst

/-- Event 2 of R204: the block accepts the offered command at this edge (R260). -/
def commandEvent (s : State) (p : PortsIn) : Bool := s.resetDone && p.cmdValid && s.cmdReady p.rst

/-- Event 3 of R204: the host accepts the response at this edge (R263). -/
def responseEvent (s : State) (p : PortsIn) : Bool := s.resetDone && s.rspValid p.rst && p.rspReady

/-- The input ports with a command offered and nothing else. -/
def offerWord (w : CmdWord) : PortsIn := ⟨false, true, cmdOpField w, cmdImmField w, false⟩

end Sys2Proof.Machine
end

