-- ==== Sys2Proof/Machine/Step.lean ====
section
/-! DEFINITION. One step: the next input reaches the block. With no input left the host drives nothing and the clock ticks on. -/

namespace Sys2Proof.Machine

/-- One step of the machine: a rising edge of clk with the port values of the next input, or a power loss. -/
def step (s : State) : Host.Outcome State Fault Refusal :=
  match s.inputs with
  | [] => clockEdge PortsIn.idle s.tick
  | .clock p :: _ => clockEdge p s.tick
  | .powerLoss :: _ => .next s.tick.losePower

/-- The host offers one command, given in the opcode table's numbering, to a block that is ready for it: the next edge accepts and
runs it. The block has no memory to store it in (20_memory.md R48; assumption log 11). -/
def State.withFetchWord (s : State) (nbits w : Nat) : State :=
  { s with
    rsp := .empty
    busy := none
    resetDone := true
    inputs := .clock (offerWord (BitVec.ofNat 67 (tableNumber nbits w))) :: s.inputs }

end Sys2Proof.Machine
end

