-- ==== Sys2Proof/WellFormed.lean ====
section
/-! DEFINITION. Which terms are well formed. Every command is: decoding is total, no encoding is reserved with behaviour
left open, and imm64 may hold any value (30_encoding.md R66). The checks that can fail are those on the integers of
an assembler line (R67, R68). -/

namespace Sys2Proof

/-- Every command word names a command (R66), so every command is well formed. -/
def Instr.wellFormed : Instr → Bool
  | .reserved0 _ => true
  | .next _ => true
  | .jump _ => true
  | .seed _ => true
  | .seeddef _ => true
  | .qmin _ => true
  | .qmax _ => true
  | .reserved7 _ => true

/-- An `<imm>` in [0, 2^64 − 1]; "A negative or larger value is refused by the assembler" (R67). -/
def immInRange (imm : Int) : Bool := decide (0 ≤ imm) && decide (imm < 2 ^ 64)

/-- An `<op>` of RAW in [0, 7] (R67). -/
def opInRange (op : Int) : Bool := decide (0 ≤ op) && decide (op < 8)

/-- The lines the assembler accepts (R67, R68). -/
def Asm.wellFormed : Asm → Bool
  | .next => true
  | .jump => true
  | .seed imm => immInRange imm
  | .seeddef => true
  | .qmin => true
  | .qmax => true
  | .raw op imm => opInRange op && immInRange imm
  | .reset => true
  | .stream imm k => immInRange imm && decide (0 ≤ k)
  | .skip n => decide (0 ≤ n)
  | .illegal => true

end Sys2Proof
end

