-- ==== Sys2Proof/Machine/Assembler.lean ====
section
/-! DEFINITION. The assembler notation of 30_encoding.md R67 and R68: reading a line, expanding it into host actions, and the port
values with which a host carries an action out (70_reset_and_hazards.md R255). The block sees only the expanded
commands; none of this is hardware (92_eei_decisions.md D26). -/

namespace Sys2Proof.Machine

/-- What the host does for one expanded line: issue a command word, or assert rst. -/
inductive HostAction where
  | word (w : CmdWord)
  | reset
deriving DecidableEq, Repr

/-- `imm` of an accepted line as a word. -/
def immWord (imm : Int) : Word := BitVec.ofNat 64 imm.toNat

/-- `RAW <op>, <imm>`: the number imm·8 + op (R67). -/
def rawWord (op imm : Int) : CmdWord := BitVec.ofNat 67 (imm.toNat * 8 + op.toNat)

/-- `STREAM <imm>, <k>`: SEED <imm>, then k × JUMP (R68). -/
def expandStream (imm : Int) (k : Nat) : List HostAction :=
  .word (encode (.seed (immWord imm))) :: List.replicate k (.word (encode (.jump 0)))

/-- The expansion of a line (R67, R68). -/
def expand : Asm → List HostAction
  | .next => [.word (encode (.next 0))]
  | .jump => [.word (encode (.jump 0))]
  | .seed imm => [.word (encode (.seed (immWord imm)))]
  | .seeddef => [.word (encode (.seeddef 0))]
  | .qmin => [.word (encode (.qmin 0))]
  | .qmax => [.word (encode (.qmax 0))]
  | .raw op imm => [.word (rawWord op imm)]
  | .reset => [.reset]
  | .stream imm k => expandStream imm k.toNat
  | .skip n => List.replicate n.toNat (.word (encode (.next 0)))
  | .illegal => [.word (rawWord 0 0)]

/-- Assemble a line; an operand out of range is refused (R67). -/
def assemble (a : Asm) : Option (List HostAction) := if a.wellFormed then some (expand a) else none

/-- The edges a host spends on one action: for a command, the accepting edge, L − 1 idle edges and the edge that accepts the
response ("accepting each response before the next command", R255, R261, R266); for RESET, one edge with rst = 1 (R250). -/
def HostAction.drive (lat : Latencies) : HostAction → List Input
  | .word w =>
    .clock (offerWord w) :: (List.replicate (latencyExtra lat (decode w)) (.clock PortsIn.idle)
      ++ [.clock { PortsIn.idle with rspReady := true }])
  | .reset => [.clock { PortsIn.idle with rst := true }]

/-- The edges for a list of actions, one after the other. -/
def driveAll (lat : Latencies) : List HostAction → List Input
  | [] => []
  | a :: rest => a.drive lat ++ driveAll lat rest

/-- Why a text line is refused. -/
inductive AsmError where
  /-- The first word of the line is no mnemonic of R67 or R68. -/
  | unknownMnemonic
  /-- An operand is missing, superfluous or no integer. -/
  | badOperands
  /-- An operand is negative or too large (R67). -/
  | outOfRange
deriving DecidableEq, Repr

/-- Blanks of a line (assumption log 18). -/
def isBlank (c : Char) : Bool := c == ' ' || c == '\t' || c == '\r'

/-- Text after `;` is a comment (R67). -/
def dropComment (line : List Char) : List Char := line.takeWhile fun c => c != ';'

/-- A piece of text without the blanks at its ends. -/
def trimBlanks (cs : List Char) : List Char := ((cs.dropWhile isBlank).reverse.dropWhile isBlank).reverse

/-- The pieces between commas. -/
def splitAtCommas : List Char → List (List Char)
  | [] => [[]]
  | c :: cs =>
    if c == ',' then [] :: splitAtCommas cs
    else match splitAtCommas cs with
      | [] => [[c]]
      | piece :: rest => (c :: piece) :: rest

/-- The value of one digit in a base, if it is one. -/
def digitValue (base : Nat) (c : Char) : Option Nat :=
  let n := c.toUpper.toNat
  let v := if 48 ≤ n ∧ n ≤ 57 then some (n - 48) else if 65 ≤ n ∧ n ≤ 70 then some (n - 55) else none
  v.bind fun d => if d < base then some d else none

/-- Digits to a number; a list without a digit, or with a foreign character, is none. -/
def digitsValue (base : Nat) (cs : List Char) : Option Nat :=
  if cs.isEmpty then none
  else cs.foldl (fun acc c => acc.bind fun n => (digitValue base c).map fun d => n * base + d) (some 0)

/-- An unsigned integer, decimal or 0x and hexadecimal digits: the forms R67 gives for `<imm>`. DESIGN CHOICE (assumption log 18):
the `<op>` of RAW, the `<k>` of STREAM and the `<n>` of SKIP, whose form R67 and R68 leave open, are read in the same forms. -/
def readNat (cs : List Char) : Option Nat :=
  match cs with
  | '0' :: 'x' :: rest => digitsValue 16 rest
  | _ => digitsValue 10 cs

/-- An integer with an optional minus sign. A negative value is refused by the range check (R67). DESIGN CHOICE (assumption log 18):
`-0`, a form R67 does not speak of, is read as the value 0, which is in range, so it is accepted. -/
def readInt (cs : List Char) : Option Int :=
  match cs with
  | '-' :: rest => (readNat rest).map fun n => -(n : Int)
  | _ => (readNat cs).map fun n => (n : Int)

/-- Mnemonics are case-insensitive (R67). -/
def mnemonicIs (word : List Char) (name : String) : Bool := word.map Char.toUpper == name.toList

/-- A line's mnemonic with its operands. -/
def readAsm (word : List Char) (operands : List Int) : Except AsmError Asm :=
  if mnemonicIs word "NEXT" then match operands with | [] => .ok .next | _ => .error .badOperands
  else if mnemonicIs word "JUMP" then match operands with | [] => .ok .jump | _ => .error .badOperands
  else if mnemonicIs word "SEED" then match operands with | [v] => .ok (.seed v) | _ => .error .badOperands
  else if mnemonicIs word "SEEDDEF" then match operands with | [] => .ok .seeddef | _ => .error .badOperands
  else if mnemonicIs word "QMIN" then match operands with | [] => .ok .qmin | _ => .error .badOperands
  else if mnemonicIs word "QMAX" then match operands with | [] => .ok .qmax | _ => .error .badOperands
  else if mnemonicIs word "RAW" then match operands with | [o, v] => .ok (.raw o v) | _ => .error .badOperands
  else if mnemonicIs word "RESET" then match operands with | [] => .ok .reset | _ => .error .badOperands
  else if mnemonicIs word "STREAM" then match operands with | [v, k] => .ok (.stream v k) | _ => .error .badOperands
  else if mnemonicIs word "SKIP" then match operands with | [n] => .ok (.skip n) | _ => .error .badOperands
  else if mnemonicIs word "ILLEGAL" then match operands with | [] => .ok .illegal | _ => .error .badOperands
  else .error .unknownMnemonic

/-- Read one line of text; a line without a command is none (R67). -/
def readLine (line : List Char) : Except AsmError (Option Asm) :=
  let body := trimBlanks (dropComment line)
  let word := body.takeWhile fun c => !isBlank c
  let rest := trimBlanks (body.dropWhile fun c => !isBlank c)
  if body.isEmpty then .ok none
  else
    match (if rest.isEmpty then some [] else (splitAtCommas rest).mapM fun p => readInt (trimBlanks p)) with
    | none => .error .badOperands
    | some operands =>
      match readAsm word operands with
      | .error e => .error e
      | .ok a => if a.wellFormed then .ok (some a) else .error .outOfRange

end Sys2Proof.Machine
end

