-- ==== Sys2Proof/Machine/System.lean ====
section
/-! DEFINITION. Several instances of the block (60_exceptions.md R215): each has a State of its own and they share nothing. Each is
stepped by itself; the order in which a system's instances step is the caller's (assumption log 10). -/

namespace Sys2Proof.Machine

/-- N_INSTANCES instances; the position in the list is the observer's, since the block has no instance identifier (R215). -/
structure System where
  blocks : List State
deriving DecidableEq, Repr

/-- Every instance at its own reset (R215). -/
def System.reset (n : Nat) : System := ⟨List.replicate n State.reset⟩

/-- Instance `k` takes one step; the others take none. DESIGN CHOICE (assumption log 10): if instance `k` faults (R254), the step of
the whole system ends in that fault and keeps no state of the other instances; the spec does not say how far such a fault
reaches. -/
def System.stepAt (y : System) (k : Fin y.blocks.length) : Host.Outcome System Fault Refusal :=
  match step (y.blocks.get k) with
  | .next t => .next ⟨y.blocks.set k t⟩
  | .fault r => .fault r
  | .refused r => .refused r

end Sys2Proof.Machine
end

