-- ==== Sys2Proof/Safety.lean ====
section
/-! DEFINITION. What claims take as premises and keep as invariants: a block that has been reset, an idle block, the handshake
invariant, a generator that stays off the zero state, a host that waits. -/

namespace Sys2Proof.Machine

/-- The block is IDLE with RSP EMPTY after a reset: the state in which "Every command ... is available" (60_exceptions.md R210). -/
def State.ready (s : State) : Prop := s.resetDone = true ∧ s.busy = none ∧ s.rsp = .empty

/-- At most one response exists: a BUSY block has RSP EMPTY (10_state.md R30, R31; 70_reset_and_hazards.md R261). Before the first
reset nothing is specified (R35). -/
def State.handshakeInv (s : State) : Prop := s.resetDone = true → s.busy.isSome = true → s.rsp = .empty

/-- The one seed that constructs the zero state (41_construction.md R115). -/
def zeroStateSeed : Word := 0x61C8864680B583EB

/-- An input that can neither lose the power nor offer a SEED of the zero-state seed. -/
def inputKeepsNonZero : Input → Prop
  | .clock p => p.cmdValid = true → decode p.cmdWord ≠ .seed zeroStateSeed
  | .powerLoss => False

/-- The generator is off the zero state, and nothing to come can construct it (R25, R115). -/
def State.nonZeroInv (s : State) : Prop :=
  s.resetDone = true ∧ s.gen ≠ Gen.zero ∧ ∀ x ∈ s.inputs, inputKeepsNonZero x

/-- An input at which the host neither resets nor accepts a response; it may offer a command (70_reset_and_hazards.md R264). -/
def inputHostWaits : Input → Prop
  | .clock p => p.rst = false ∧ p.rspReady = false
  | .powerLoss => False

/-- No IllegalCommand response has been produced: the premise that 60_exceptions.md R201 foresees. -/
def State.noIllegalCommand (s : State) : Prop := s.illegalMark = false

/-- The fields of a block that are hardware, with its coming inputs: all but the model's own mark and draw counter. -/
def State.sameHardware (a b : State) : Prop :=
  a.gen = b.gen ∧ a.rsp = b.rsp ∧ a.busy = b.busy ∧ a.resetDone = b.resetDone ∧ a.lat = b.lat ∧ a.inputs = b.inputs

end Sys2Proof.Machine
end

