-- ==== Sys2Proof/Certificates/Slice0/Obligations.lean ====
section
/-! DEFINITION. The statements for the provers. Each docstring names the rule of spec/ it formalises. A statement about what
a command does ends in `exec … = .next { s with … }`: every field not named there is unchanged, so it states the
command's frame too. The block has no memory, flag register, program counter or special register
(10_state.md R33), so no frame has more to say. -/

open Sys2Proof Sys2Proof.Machine

/-! ### Reset state and constants -/

/-- R34: what reset leaves. The two literals are the spec's own evaluation of R110 at R27. -/
def Obligations.ResetStateIsDefaultConstruction : Prop :=
  State.reset.gen = construct 0xFFFFFFFFFFFFFFD6 ∧
  State.reset.gen = ⟨0x484648A3CDA7FD32, 0x6F13E9E0E77DA828⟩ ∧
  State.reset.rsp = .empty ∧ State.reset.busy = none

/-- R27; and the values and bit counts of R26, the values of R28. -/
def Obligations.HardwiredConstants : Prop :=
  defaultSeed = 0xFFFFFFFFFFFFFFD6 ∧ defaultSeed = BitVec.ofInt 64 (-42) ∧ defaultSeed.toNat = 2 ^ 64 - 42 ∧
  jump0 = 0xBEAC0467EBA5FACB ∧ ((List.range 64).filter jump0.getLsbD).length = 37 ∧
  jump1 = 0xD86B048B86AA9922 ∧ ((List.range 64).filter jump1.getLsbD).length = 27 ∧
  minValue.toNat = 0 ∧ maxValue.toNat = 2 ^ 64 - 1

/-! ### Encoding -/

/-- R63: the opcode map, with the field places of R61. -/
def Obligations.DecodeFollowsOpcodeMap : Prop :=
  ∀ w : CmdWord,
    (w.extractLsb' 0 3 = 0b000#3 → decode w = .reserved0 (w.extractLsb' 3 64)) ∧
    (w.extractLsb' 0 3 = 0b001#3 → decode w = .next (w.extractLsb' 3 64)) ∧
    (w.extractLsb' 0 3 = 0b010#3 → decode w = .jump (w.extractLsb' 3 64)) ∧
    (w.extractLsb' 0 3 = 0b011#3 → decode w = .seed (w.extractLsb' 3 64)) ∧
    (w.extractLsb' 0 3 = 0b100#3 → decode w = .seeddef (w.extractLsb' 3 64)) ∧
    (w.extractLsb' 0 3 = 0b101#3 → decode w = .qmin (w.extractLsb' 3 64)) ∧
    (w.extractLsb' 0 3 = 0b110#3 → decode w = .qmax (w.extractLsb' 3 64)) ∧
    (w.extractLsb' 0 3 = 0b111#3 → decode w = .reserved7 (w.extractLsb' 3 64))

/-- R69: the ten example words. -/
def Obligations.ExampleWordsDecode : Prop :=
  decode 0x00000000000000001 = .next 0 ∧ decode 0x00000000000000002 = .jump 0 ∧
  decode 0x00000000000000003 = .seed 0 ∧ decode 0x00000000000000153 = .seed 42 ∧
  decode 0x7FFFFFFFFFFFFFEB3 = .seed 0xFFFFFFFFFFFFFFD6 ∧ decode 0x00000000000000004 = .seeddef 0 ∧
  decode 0x00000000000000005 = .qmin 0 ∧ decode 0x00000000000000006 = .qmax 0 ∧
  decode 0x00000000000000000 = .reserved0 0 ∧ decode 0x000000000000091A7 = .reserved7 0x1234

/-- R61: the fields of a command word, and CMD = imm64·8 + op as a number. -/
def Obligations.CommandWordPacksFields : Prop :=
  (∀ i : Instr, (encode i).toNat = i.imm.toNat * 8 + i.op.toNat ∧
    (encode i).extractLsb' 0 3 = i.op ∧ (encode i).extractLsb' 3 64 = i.imm) ∧
  (∀ p : PortsIn, p.cmdWord.toNat = p.cmdSeed.toNat * 8 + p.cmdOp.toNat ∧
    p.cmdWord.extractLsb' 0 3 = p.cmdOp ∧ p.cmdWord.extractLsb' 3 64 = p.cmdSeed)

/-- R62: the fields of a response word, and that a response transfer carries RSP's data and err. -/
def Obligations.ResponseWordPacksFields : Prop :=
  (∀ (data : Word) (err : Bool),
    (responseWord data err).extractLsb' 0 64 = data ∧ (responseWord data err).getLsbD 64 = err ∧
    (responseWord data err).toNat = err.toNat * 2 ^ 64 + data.toNat) ∧
  (∀ (s : State) (p : PortsIn), responseEvent s p = true →
    ∃ (o : PortsOut) (data : Word) (err : Bool), s.rsp = .full data err ∧ outputPorts s p.rst = some o ∧
      o.rspValid = true ∧ o.rspWord = responseWord data err)

/-- R61, R63, R66: encoding and decoding are inverse to each other on all commands and all 2^67 words. -/
def Obligations.DecodeEncodeInverse : Prop :=
  (∀ i : Instr, i.wellFormed = true → decode (encode i) = i) ∧ (∀ w : CmdWord, encode (decode w) = w)

/-- R64: SEED takes imm64 whole, SEEDDEF uses DEFAULT_SEED, and imm64 has no effect on any other command. -/
def Obligations.SeedOperandTakenWholeOthersIgnored : Prop :=
  (∀ (w : CmdWord) (s : State), w.extractLsb' 0 3 = 0b011#3 → s.resetDone = true →
    exec (decode w) s = .next { s with gen := construct (w.extractLsb' 3 64), rsp := .full 0 false }) ∧
  (∀ (w : CmdWord) (s : State), w.extractLsb' 0 3 = 0b100#3 → s.resetDone = true →
    exec (decode w) s = .next { s with gen := construct 0xFFFFFFFFFFFFFFD6, rsp := .full 0 false }) ∧
  (∀ (v w : CmdWord) (s : State), v.extractLsb' 0 3 = w.extractLsb' 0 3 → w.extractLsb' 0 3 ≠ 0b011#3 →
    exec (decode v) s = exec (decode w) s)

/-! ### The commands -/

/-- R130 and R131: NEXT, with R131's corner cases and example. -/
def Obligations.NextReturnsSumAndAdvances : Prop :=
  (∀ (w : CmdWord) (s : State), w.extractLsb' 0 3 = 0b001#3 → s.resetDone = true →
    exec (decode w) s = .next
      { s with
        gen :=
          ⟨((s.gen.s0 <<< 55) ||| (s.gen.s0 >>> 9)) ^^^ (s.gen.s1 ^^^ s.gen.s0) ^^^ ((s.gen.s1 ^^^ s.gen.s0) <<< 14),
            ((s.gen.s1 ^^^ s.gen.s0) <<< 36) ||| ((s.gen.s1 ^^^ s.gen.s0) >>> 28)⟩
        rsp := .full (s.gen.s0 + s.gen.s1) false }) ∧
  (generateNext ⟨0xFFFFFFFFFFFFFFFF, 1⟩).2 = 0 ∧
  generateNext ⟨0, 0⟩ = (⟨0, 0⟩, 0) ∧
  (∀ x : Word, (generateNext ⟨x, x⟩).1 = ⟨rotateLeft x 55, 0⟩) ∧
  (∃ g : Gen, (generateNext (generateNext g).1).1 ≠ (generateNext g).1) ∧
  generateNext ⟨1, 0⟩ = (⟨0x0080000000004001, 0x0000001000000000⟩, 1)

/-- R134 and R135: QMIN and QMAX answer the declared bounds in every state and touch nothing but RSP. -/
def Obligations.QueriesAnswerBounds : Prop :=
  (∀ (w : CmdWord) (s : State), w.extractLsb' 0 3 = 0b101#3 → s.resetDone = true →
    exec (decode w) s = .next { s with rsp := .full 0x0000000000000000 false }) ∧
  (∀ (w : CmdWord) (s : State), w.extractLsb' 0 3 = 0b110#3 → s.resetDone = true →
    exec (decode w) s = .next { s with rsp := .full 0xFFFFFFFFFFFFFFFF false })

/-- R150 and R152: JUMP leaves the XOR of the states after i Nexts over the set bits i of {JUMP1, JUMP0}, and answers 0. -/
def Obligations.JumpAccumulatesSelectedStates : Prop :=
  ∀ (w : CmdWord) (s : State), w.extractLsb' 0 3 = 0b010#3 → s.resetDone = true →
    exec (decode w) s = .next
      { s with
        gen := (List.range 128).foldl
          (fun acc i =>
            if (if i < 64 then (0xBEAC0467EBA5FACB : Word).getLsbD i else (0xD86B048B86AA9922 : Word).getLsbD (i - 64))
            then (⟨acc.s0 ^^^ (advance^[i] s.gen).s0, acc.s1 ^^^ (advance^[i] s.gen).s1⟩ : Gen) else acc)
          ⟨0, 0⟩
        rsp := .full 0 false }

/-- R110, R111 and R112: SEED and SEEDDEF construct, with the rules' corner cases and examples. -/
def Obligations.SeedCommandsConstruct : Prop :=
  (∀ (w : CmdWord) (s : State), w.extractLsb' 0 3 = 0b011#3 → s.resetDone = true →
    exec (decode w) s = .next
      { s with
        gen := jumpAhead ⟨w.extractLsb' 3 64 + 0x9E3779B97F4A7C15, (splitMix64Step (w.extractLsb' 3 64)).2⟩
        rsp := .full 0 false }) ∧
  (∀ (w : CmdWord) (s : State), w.extractLsb' 0 3 = 0b100#3 → s.resetDone = true →
    exec (decode w) s = .next
      { s with
        gen := jumpAhead ⟨0xFFFFFFFFFFFFFFD6 + 0x9E3779B97F4A7C15, (splitMix64Step 0xFFFFFFFFFFFFFFD6).2⟩
        rsp := .full 0 false } ∧
    exec (decode w) s = exec (.seed 0xFFFFFFFFFFFFFFD6) s) ∧
  (∀ (v : Word) (s t : State), exec (.seed v) s = .next t → exec (.seed v) t = .next t) ∧
  construct 0 = ⟨0x846AC48C09BF9FF6, 0xB761A8D0B7DD7275⟩ ∧
  construct 0x61C8864680B583EB = ⟨0, 0⟩ ∧
  construct 0xFFFFFFFFFFFFFFD6 = State.reset.gen ∧
  construct 0xFFFFFFFFFFFFFFD6 = ⟨0x484648A3CDA7FD32, 0x6F13E9E0E77DA828⟩

/-- R201: the reserved opcodes raise IllegalCommand, an error response; afterwards the block goes on as usual. The mark is the
model's own, as R201 asks (assumption log 7). That the next command's effect stands at its accepting edge, its response held back,
is the model's choice (assumption log 2). -/
def Obligations.ReservedOpcodesRaiseIllegalCommand : Prop :=
  ∀ (w : CmdWord) (s : State), (w.extractLsb' 0 3 = 0b000#3 ∨ w.extractLsb' 0 3 = 0b111#3) → s.resetDone = true →
    exec (decode w) s = .next { s with rsp := .full 0 true, illegalMark := true } ∧
    (s.busy = none →
      clockEdge { PortsIn.idle with rspReady := true } { s with rsp := .full 0 true, illegalMark := true }
          = .next { s with rsp := .empty, illegalMark := true } ∧
        ∀ p : PortsIn, p.rst = false → p.cmdValid = true →
          clockEdge p { s with rsp := .empty, illegalMark := true }
            = mapNext (exec (decode p.cmdWord) { s with rsp := .empty, illegalMark := true })
                (fun t => t.holdResponse (latencyExtra s.lat (decode p.cmdWord))))

/-- R65 and R200: every command of every form completes, with the table's response; only the reserved opcodes set err. -/
def Obligations.EveryCommandRespondsAsTabled : Prop :=
  ∀ (i : Instr) (s : State), s.resetDone = true →
    ∃ t : State, exec i s = .next t ∧
      t.rsp = match i with
        | .reserved0 _ => .full 0 true
        | .next _ => .full (s.gen.s0 + s.gen.s1) false
        | .jump _ => .full 0 false
        | .seed _ => .full 0 false
        | .seeddef _ => .full 0 false
        | .qmin _ => .full 0 false
        | .qmax _ => .full 0xFFFFFFFFFFFFFFFF false
        | .reserved7 _ => .full 0 true

/-- R24, R33: the frame of every command. -/
def Obligations.CommandsChangeOnlyGenAndRsp : Prop :=
  ∀ (i : Instr) (s t : State), exec i s = .next t →
    t.busy = s.busy ∧ t.resetDone = s.resetDone ∧ t.lat = s.lat ∧ t.inputs = s.inputs ∧ t.draws = s.draws ∧
    (match i with
      | .qmin _ | .qmax _ | .reserved0 _ | .reserved7 _ => t.gen = s.gen
      | .next _ | .jump _ | .seed _ | .seeddef _ => True) ∧
    (match i with
      | .reserved0 _ | .reserved7 _ => t.illegalMark = true
      | .next _ | .jump _ | .seed _ | .seeddef _ | .qmin _ | .qmax _ => t.illegalMark = s.illegalMark)

/-- R24: which commands read and which write S0 and S1. -/
def Obligations.ReadersAndWritersOfState : Prop :=
  (∀ (i : Instr) (s : State) (g : Gen),
    match i with
    | .seed _ | .seeddef _ => exec i { s with gen := g } = exec i s
    | .qmin _ | .qmax _ | .reserved0 _ | .reserved7 _ =>
      ∀ t, exec i s = .next t → t.gen = s.gen ∧ exec i { s with gen := g } = .next { t with gen := g }
    | .next _ | .jump _ => True) ∧
  (∀ (p : PortsIn) (s : State) (g : Gen), p.rst = true → clockEdge p { s with gen := g } = clockEdge p s) ∧
  (∀ i : Instr,
    match i with
    | .next _ | .jump _ =>
      (∃ (s t u : State) (g : Gen), exec i s = .next t ∧ exec i { s with gen := g } = .next u ∧ t.gen ≠ u.gen) ∧
      (∃ s t : State, exec i s = .next t ∧ t.gen ≠ s.gen)
    | .seed _ | .seeddef _ => ∃ s t : State, exec i s = .next t ∧ t.gen ≠ s.gen
    | .qmin _ | .qmax _ | .reserved0 _ | .reserved7 _ => True) ∧
  (∃ (p : PortsIn) (s t : State), p.rst = true ∧ clockEdge p s = .next t ∧ t.gen ≠ s.gen)

/-- R44: which commands are idempotent. -/
def Obligations.IdempotentCommands : Prop :=
  (∀ (i : Instr) (s t : State), exec i s = .next t →
    match i with
    | .seed _ | .seeddef _ | .qmin _ | .qmax _ | .reserved0 _ | .reserved7 _ => exec i t = .next t
    | .next _ | .jump _ => True) ∧
  (∃ s t u : State, exec (.next 0) s = .next t ∧ exec (.next 0) t = .next u ∧ u.gen ≠ t.gen) ∧
  (∃ s t u : State, exec (.jump 0) s = .next t ∧ exec (.jump 0) t = .next u ∧ u.gen ≠ t.gen)

/-- R113: the first value after a construction is the output of Next at the constructed state. -/
def Obligations.FirstValueAfterConstruction : Prop :=
  ∀ (v : Word) (s : State), s.resetDone = true →
    ∃ t u : State, exec (.seed v) s = .next t ∧ t.rsp = .full 0 false ∧
      exec (.next 0) t.acceptResponse = .next u ∧
      u.rsp = .full ((construct v).s0 + (construct v).s1) false

/-! ### The arithmetic of the sub-blocks -/

/-- R14, and the document's round trip (95_test_vectors.md W9). -/
def Obligations.RotateLeftMovesBits : Prop :=
  ∀ (x : Word) (k : Nat), 1 ≤ k → k ≤ 63 →
    rotateLeft x k = (x <<< k) ||| (x >>> (64 - k)) ∧
    (∀ i, i < 64 → (rotateLeft x k).getLsbD i = x.getLsbD ((i + 64 - k) % 64)) ∧
    rotateLeft (rotateLeft x k) (64 - k) = x

/-- R100, with the constants of R101, the corner of R104 and the example. -/
def Obligations.SplitMixStepFormula : Prop :=
  (∀ w : Word,
    let w' := w + 0x9E3779B97F4A7C15
    let z1 := (w' ^^^ (w' >>> 30)) * 0xBF58476D1CE4E5B9
    let z2 := (z1 ^^^ (z1 >>> 27)) * 0x94D049BB133111EB
    splitMix64Step w = (w', z2 ^^^ (z2 >>> 31))) ∧
  splitMix64Step 0x61C8864680B583EB = (0, 0) ∧
  splitMix64Step 0 = (0x9E3779B97F4A7C15, 0xE220A8397B1DCDAF)

/-- R104: the mixing function is a bijection, and exactly one seeding word gives a zero. -/
def Obligations.SplitMixZeroOnlyAtMinusGamma : Prop :=
  Function.Bijective splitMix64Mix ∧
  (∀ w : Word, (splitMix64Step w).1 = 0 ↔ w = 0x61C8864680B583EB) ∧
  (∀ w : Word, (splitMix64Step w).2 = 0 ↔ w = 0x61C8864680B583EB)

/-- R137: the state part of Next is linear and invertible, by the recovery the rule gives; its output is not linear. -/
def Obligations.AdvanceLinearAndInvertible : Prop :=
  (∀ a b : Gen, advance (a.xor b) = (advance a).xor (advance b)) ∧
  Function.Bijective advance ∧
  (∀ g : Gen,
    let t := rotateLeft (advance g).s1 28
    t = g.s1 ^^^ g.s0 ∧ rotateLeft g.s0 55 = (advance g).s0 ^^^ t ^^^ (t <<< 14) ∧ g.s1 = t ^^^ g.s0) ∧
  (∃ a b : Gen, nextOutput (a.xor b) ≠ nextOutput a ^^^ nextOutput b)

/-- R154, the linear part: JumpAhead is linear over GF(2) and keeps the zero state. -/
def Obligations.JumpAheadLinear : Prop :=
  (∀ a b : Gen, jumpAhead (a.xor b) = (jumpAhead a).xor (jumpAhead b)) ∧ jumpAhead Gen.zero = Gen.zero

/-- R153: one JumpAhead is 2^64 Nexts, two are 2^65, and it is invertible (R154). -/
def Obligations.JumpAheadIsTwoPow64Nexts : Prop :=
  (∀ g : Gen, jumpAhead g = advance^[2 ^ 64] g) ∧
  (∀ g : Gen, jumpAhead (jumpAhead g) = advance^[2 ^ 65] g) ∧
  Function.Bijective jumpAhead

/-- R36: every non-zero state lies on one cycle of length 2^128 − 1. -/
def Obligations.NonZeroStatesFormOneCycle : Prop :=
  (∀ (g : Gen) (n : Nat), g ≠ Gen.zero → (advance^[n] g = g ↔ 2 ^ 128 - 1 ∣ n)) ∧
  (∀ g h : Gen, g ≠ Gen.zero → h ≠ Gen.zero → ∃ n, n < 2 ^ 128 - 1 ∧ advance^[n] g = h) ∧
  advance Gen.zero = Gen.zero

/-- R132: every value is some state's output, and how often over all non-zero states. -/
def Obligations.OutputValueMultiplicity : Prop :=
  ∀ v : Word, Nat.card { g : Gen // g ≠ Gen.zero ∧ nextOutput g = v } = if v = 0 then 2 ^ 64 - 1 else 2 ^ 64

/-- R115: exactly one seed constructs the zero state, and every NEXT from there answers 0. -/
def Obligations.OneSeedConstructsZeroState : Prop :=
  (∀ seed : Word, construct seed = Gen.zero ↔ seed = 0x61C8864680B583EB) ∧
  (∀ n : Nat, nextOutput (advance^[n] (construct 0x61C8864680B583EB)) = 0)

/-- R156: the first 2^64 states of stream k and of stream k+1 have none in common. -/
def Obligations.NeighbourStreamsDisjoint : Prop :=
  ∀ (seed : Word) (k i j : Nat), construct seed ≠ Gen.zero → i < 2 ^ 64 → j < 2 ^ 64 →
    advance^[i] (streamState seed k) ≠ advance^[j] (streamState seed (k + 1))

/-! ### The clock edge: reset, handshake, latency -/

/-- R260: the block accepts exactly when rst = 0, cmd_valid = 1 and cmd_ready = 1; then the step is exec of the decoded command, with
its response held back for its latency (R266; that the effect stands at the accepting edge is the model's choice, assumption log 2);
a command not accepted has no effect. -/
def Obligations.StepRunsAcceptedCommand : Prop :=
  ∀ (s : State) (p : PortsIn) (rest : List Input), s.inputs = .clock p :: rest → s.resetDone = true → p.rst = false →
    (p.cmdValid = true → s.cmdReady p.rst = true →
      step s = mapNext (exec (decode p.cmdWord) { s with inputs := rest, draws := s.draws + 1 })
        (fun t => t.holdResponse (latencyCycles s.lat (decode p.cmdWord) - 1))) ∧
    (p.cmdValid = false ∨ s.cmdReady p.rst = false →
      ∀ q : PortsIn, q.rst = false → q.rspReady = p.rspReady → q.cmdValid = false ∨ s.cmdReady p.rst = false →
        step { s with inputs := .clock q :: rest } = step s)

/-- R250 and R253: a rising edge with rst = 1, in every state, idle, BUSY or with a response pending, and before the first reset too. -/
def Obligations.ResetEdgeLoadsResetState : Prop :=
  (∀ (s : State) (p : PortsIn) (rest : List Input), s.inputs = .clock p :: rest → p.rst = true →
    step s = .next
      { s with gen := construct 0xFFFFFFFFFFFFFFD6, rsp := .empty, busy := none, resetDone := true,
               inputs := rest, draws := s.draws + 1 }) ∧
  (∀ s : State, s.resetDone = true →
    ∃ o : PortsOut, outputPorts s true = some o ∧ o.cmdReady = false ∧ o.rspValid = false) ∧
  (∀ (s : State) (v : Word), s.resetDone = true →
    ∃ t : State, exec (.seeddef v) s = .next t ∧ t.gen = construct 0xFFFFFFFFFFFFFFD6)

/-- R252: one reset edge suffices, and the next edge can accept a command. That its effect stands at the accepting edge, its response
held back, is the model's choice (assumption log 2); the longer reset sequence of R251 is left out (assumption log 14). -/
def Obligations.CommandAcceptedRightAfterReset : Prop :=
  ∀ (s : State) (p q : PortsIn) (rest : List Input),
    s.inputs = .clock p :: .clock q :: rest → p.rst = true → q.rst = false →
    ∃ t : State, step s = .next t ∧ t.busy = none ∧ t.rsp = .empty ∧
      (∃ o : PortsOut, outputPorts t q.rst = some o ∧ o.cmdReady = true) ∧
      (q.cmdValid = true →
        ∃ u : State, exec (decode q.cmdWord) { t with inputs := rest, draws := t.draws + 1 } = .next u ∧
          step t = .next (u.holdResponse (latencyCycles t.lat (decode q.cmdWord) - 1)))

/-- R261: cmd_ready = 1 exactly when rst = 0, the block is IDLE and RSP is EMPTY. -/
def Obligations.CmdReadyExactlyWhenIdleAndEmpty : Prop :=
  ∀ (s : State) (rst : Bool), s.resetDone = true →
    ∃ o : PortsOut, outputPorts s rst = some o ∧
      (o.cmdReady = true ↔ rst = false ∧ s.busy = none ∧ s.rsp = .empty)

/-- R262: the response is shown and held until it is accepted or a reset occurs. -/
def Obligations.ResponseShownAndHeld : Prop :=
  (∀ (s : State) (data : Word) (err : Bool), s.resetDone = true → s.rsp = .full data err →
    outputPorts s false = some ⟨false, true, data, err⟩) ∧
  (∀ (s : State) (rst : Bool), s.resetDone = true → s.rsp = .empty →
    ∃ o : PortsOut, outputPorts s rst = some o ∧ o.rspValid = false) ∧
  (∀ (s : State) (data : Word) (err : Bool) (x : Input) (rest : List Input), s.resetDone = true → s.handshakeInv →
    s.rsp = .full data err → s.inputs = x :: rest → inputHostWaits x →
    step s = .next { s with inputs := rest, draws := s.draws + 1 }) ∧
  (∀ (s : State) (data : Word) (err : Bool), s.resetDone = true → s.handshakeInv →
    s.rsp = .full data err → s.inputs = [] → step s = .next { s with draws := s.draws + 1 })

/-- R263: accepting a response empties RSP and makes the block ready; rsp_ready without rsp_valid has no effect. -/
def Obligations.AcceptedResponseEmptiesRsp : Prop :=
  (∀ (s : State) (data : Word) (err : Bool) (p : PortsIn) (rest : List Input), s.resetDone = true → s.handshakeInv →
    s.rsp = .full data err → s.inputs = .clock p :: rest → p.rst = false → p.rspReady = true →
    step s = .next { s with rsp := .empty, inputs := rest, draws := s.draws + 1 } ∧
    State.cmdReady { s with rsp := .empty, inputs := rest, draws := s.draws + 1 } false = true) ∧
  (∀ (s : State) (p : PortsIn) (rest : List Input), s.rsp = .empty → s.inputs = .clock p :: rest →
    step { s with inputs := .clock { p with rspReady := true } :: rest }
      = step { s with inputs := .clock { p with rspReady := false } :: rest })

/-- R264: while the host waits, the block waits, for any number of edges. -/
def Obligations.BlockWaitsForHostForever : Prop :=
  ∀ (n : Nat) (s : State) (data : Word) (err : Bool), s.resetDone = true → s.handshakeInv → s.rsp = .full data err →
    (∀ x ∈ s.inputs, inputHostWaits x) →
    ∃ t : State, Host.Core.run Sys2Proof.core n s = .next t ∧
      t.rsp = .full data err ∧ t.gen = s.gen ∧ State.cmdReady t false = false

/-- R266: the response of a command accepted at edge e_k enters RSP at edge e_(k+L−1) and not before; L is a constant of the
command's kind, at least 1, that nothing changes. -/
def Obligations.ResponseEntersAfterLatency : Prop :=
  (∀ (s : State) (p : PortsIn) (rest : List Input) (u : State), s.ready → s.inputs = .clock p :: rest →
    p.rst = false → p.cmdValid = true → exec (decode p.cmdWord) s = .next u →
    (∀ x ∈ rest.take (latencyExtra s.lat (decode p.cmdWord)), ∃ q : PortsIn, x = .clock q ∧ q.rst = false) →
    (∀ n, 1 ≤ n → n < latencyCycles s.lat (decode p.cmdWord) →
      ∃ t : State, Host.Core.run Sys2Proof.core n s = .next t ∧ t.rsp = .empty ∧ t.busy.isSome = true) ∧
    (∃ t : State, Host.Core.run Sys2Proof.core (latencyCycles s.lat (decode p.cmdWord)) s = .next t ∧
      t.rsp = u.rsp ∧ t.busy = none ∧ t.gen = u.gen ∧
      t.inputs = s.inputs.drop (latencyCycles s.lat (decode p.cmdWord)))) ∧
  (∀ (lat : Latencies) (i : Instr), 1 ≤ latencyCycles lat i ∧
    latencyCycles lat i = match i with
      | .next _ => lat.extraNext + 1
      | .jump _ => lat.extraJump + 1
      | .seed _ | .seeddef _ => lat.extraSeed + 1
      | .qmin _ | .qmax _ => lat.extraQuery + 1
      | .reserved0 _ | .reserved7 _ => lat.extraIllegal + 1) ∧
  (∀ s t : State, step s = .next t → t.lat = s.lat)

/-- R204: at most one of reset, command acceptance and response acceptance happens at an edge, and reset wins. That an accepted
command's effect stands at that edge, its response held back, is the model's choice (assumption log 2). -/
def Obligations.EdgeEventsExcludeEachOther : Prop :=
  (∀ (s : State) (p : PortsIn),
    ¬(resetEvent p = true ∧ commandEvent s p = true) ∧ ¬(resetEvent p = true ∧ responseEvent s p = true) ∧
    ¬(commandEvent s p = true ∧ responseEvent s p = true)) ∧
  (∀ (s : State) (p : PortsIn), resetEvent p = true → clockEdge p s = .next s.applyReset) ∧
  (∀ (s : State) (p : PortsIn), commandEvent s p = true →
    clockEdge p s = mapNext (exec (decode p.cmdWord) s) (fun t => t.holdResponse (latencyExtra s.lat (decode p.cmdWord)))) ∧
  (∀ (s : State) (p : PortsIn), s.handshakeInv → responseEvent s p = true →
    clockEdge p s = .next { s with rsp := .empty })

/-- R254 and R35: before the first reset a command is a fault and a port has no value. -/
def Obligations.CommandBeforeFirstResetFaults : Prop :=
  ∀ s : State, s.resetDone = false →
    (∀ i : Instr, exec i s = .fault .commandBeforeReset) ∧
    (∀ rst : Bool, outputPorts s rst = none) ∧
    (∀ (p : PortsIn) (rest : List Input), s.inputs = .clock p :: rest → p.rst = false → p.cmdValid = true →
      step s = .fault .commandBeforeReset)

/-- R200, R254: the machine stops nowhere but at a command before the first reset, and refuses nothing. -/
def Obligations.StepStopsOnlyBeforeFirstReset : Prop :=
  ∀ s : State,
    (∃ t : State, step s = .next t) ∨
    (step s = .fault .commandBeforeReset ∧ s.resetDone = false ∧
      ∃ (p : PortsIn) (rest : List Input), s.inputs = .clock p :: rest ∧ p.rst = false ∧ p.cmdValid = true)

/-- R214: an idle block holds its state; a power loss without retention (an input of the model, assumption log 6) brings back the state
before the first reset, which one reset edge ends. -/
def Obligations.IdleBlockHoldsPowerLossForgets : Prop :=
  (∀ (s : State) (p : PortsIn) (rest : List Input), s.ready → s.inputs = .clock p :: rest → p.rst = false →
    p.cmdValid = false → step s = .next { s with inputs := rest, draws := s.draws + 1 }) ∧
  (∀ (s : State) (rest : List Input), s.inputs = .powerLoss :: rest →
    ∃ t : State, step s = .next t ∧ t.resetDone = false ∧ t.inputs = rest ∧ t.lat = s.lat ∧
      (∀ i : Instr, exec i t = .fault .commandBeforeReset) ∧ t.applyReset.gen = State.reset.gen ∧
      t.applyReset.ready)

/-- R24, R136: S0 and S1 change only by reset, by an accepted NEXT, JUMP, SEED or SEEDDEF, and by a power loss
(assumption log 6). That they change at the accepting edge and not while BUSY (assumption log 2), and keep over edges before the first
reset (assumption log 5), are the model's choices. -/
def Obligations.GenChangesOnlyByItsWriters : Prop :=
  ∀ s t : State, step s = .next t → t.gen ≠ s.gen →
    (∃ rest : List Input, s.inputs = .powerLoss :: rest) ∨
    (∃ (p : PortsIn) (rest : List Input), s.inputs = .clock p :: rest ∧
      (p.rst = true ∨
        (commandEvent s p = true ∧ s.busy = none ∧ s.rsp = .empty ∧
          match decode p.cmdWord with
          | .next _ | .jump _ | .seed _ | .seeddef _ => True
          | .qmin _ | .qmax _ | .reserved0 _ | .reserved7 _ => False)))

/-- R136, R202: from the zero state NEXT answers 0 with no error, NEXT and JUMP keep it, and only SEED, SEEDDEF, reset or a power loss
(assumption log 6) can end it. That a SEED in flight has had its effect at its accepting edge (assumption log 2), and that S0 and S1
keep over edges before the first reset (assumption log 5), are the model's choices. -/
def Obligations.ZeroStateStaysZero : Prop :=
  (∀ (v : Word) (s : State), s.resetDone = true → s.gen = Gen.zero →
    exec (.next v) s = .next { s with rsp := .full 0 false } ∧
    exec (.jump v) s = .next { s with rsp := .full 0 false }) ∧
  (∀ s t : State, s.gen = Gen.zero → step s = .next t →
    (∀ x ∈ s.inputs.head?, ∃ p : PortsIn, x = .clock p ∧ p.rst = false ∧
      (commandEvent s p = true → ∀ v : Word, decode p.cmdWord ≠ .seed v ∧ decode p.cmdWord ≠ .seeddef v)) →
    t.gen = Gen.zero)

/-- R201's bookkeeping mark (assumption log 7): set exactly by an accepted reserved opcode, and never cleared;
that nothing clears it is the model's choice. -/
def Obligations.IllegalMarkSetOnlyByReservedOpcode : Prop :=
  ∀ s t : State, step s = .next t →
    (t.illegalMark = true ↔ s.illegalMark = true ∨
      ∃ (p : PortsIn) (rest : List Input), s.inputs = .clock p :: rest ∧ commandEvent s p = true ∧
        (p.cmdOp = 0b000#3 ∨ p.cmdOp = 0b111#3))

/-! ### Invariants -/

/-- R30, R31, R261: every step keeps "a BUSY block has RSP EMPTY". -/
def Obligations.StepKeepsHandshakeInv : Prop :=
  ∀ s t : State, s.handshakeInv → step s = .next t → t.handshakeInv

/-- The handshake invariant holds at reset, and so does the readiness of R252. -/
def Obligations.ResetMeetsHandshakeInv : Prop :=
  State.reset.handshakeInv ∧ State.reset.ready

/-- R25, R115: every step keeps the generator off the zero state, unless a SEED of the one seed is to come. That a SEED
in flight has had its effect at its accepting edge, and cannot zero S0 and S1 later, is the model's choice (assumption log 2). -/
def Obligations.StepKeepsNonZeroInv : Prop :=
  ∀ s t : State, s.nonZeroInv → step s = .next t → t.nonZeroInv

/-- R25: the reset state is off the zero state. Its empty list of inputs is the model's choice (assumption log 1). -/
def Obligations.ResetMeetsNonZeroInv : Prop :=
  State.reset.nonZeroInv

/-! ### Runs, streams, several instances, the assembler -/

/-- R22: blocks with equal hardware state and inputs stay equal whatever the model's own fields hold, and show equal responses. -/
def Obligations.EqualHardwareRunsEqual : Prop :=
  (∀ (n : Nat) (a b : State), a.sameHardware b → (∀ x ∈ a.inputs, x ≠ .powerLoss) →
    match Host.Core.run Sys2Proof.core n a, Host.Core.run Sys2Proof.core n b with
    | .next t, .next u => State.sameHardware t u
    | .fault r, .fault r' => r = r'
    | _, _ => False) ∧
  (∀ (a b : State) (data : Word) (err : Bool), a.sameHardware b → a.resetDone = true → a.rsp = .full data err →
    outputPorts a false = outputPorts b false)

/-- R68, R156: a host that carries out STREAM <imm>, <k>, accepting each response before the next command, leaves the block ready at
stream k's state; SKIP <n> advances it n times. -/
def Obligations.StreamAndSkipReachTheirStates : Prop :=
  (∀ (k : Nat) (imm : Int) (s : State) (rest : List Input), s.ready → immInRange imm = true →
    s.inputs = driveAll s.lat (expand (.stream imm k)) ++ rest →
    ∃ t : State, Host.Core.run Sys2Proof.core (driveAll s.lat (expand (.stream imm k))).length s = .next t ∧
      t.ready ∧ t.gen = jumpAhead^[k] (construct (BitVec.ofInt 64 imm)) ∧ t.inputs = rest ∧
      t.illegalMark = s.illegalMark) ∧
  (∀ (n : Nat) (s : State) (rest : List Input), s.ready →
    s.inputs = driveAll s.lat (expand (.skip n)) ++ rest →
    ∃ t : State, Host.Core.run Sys2Proof.core (driveAll s.lat (expand (.skip n))).length s = .next t ∧
      t.ready ∧ t.gen = advance^[n] s.gen ∧ t.inputs = rest ∧ t.illegalMark = s.illegalMark)

/-- R215: instances neither affect nor observe each other. -/
def Obligations.InstancesShareNothing : Prop :=
  (∀ (y z : System) (k : Fin y.blocks.length), y.stepAt k = .next z →
    z.blocks.length = y.blocks.length ∧
    (∃ t : State, step (y.blocks.get k) = .next t ∧ z.blocks[k.val]? = some t) ∧
    (∀ j : Nat, j ≠ k.val → z.blocks[j]? = y.blocks[j]?)) ∧
  (∀ (y y' : System) (k : Fin y.blocks.length) (k' : Fin y'.blocks.length) (z : System),
    y.blocks.get k = y'.blocks.get k' → y.stepAt k = .next z →
    ∃ z' : System, y'.stepAt k' = .next z' ∧ z'.blocks[k'.val]? = z.blocks[k.val]?) ∧
  (∀ (n k : Nat), k < n → (System.reset n).blocks[k]? = some State.reset)

/-- R67: which operands the assembler refuses, and the words of the mnemonics and of RAW. -/
def Obligations.AssemblerEncodesOrRefuses : Prop :=
  (∀ v : Int, 0 ≤ v → v < 2 ^ 64 →
    ∃ w : CmdWord, assemble (.seed v) = some [.word w] ∧ (w.toNat : Int) = v * 8 + 3) ∧
  (∀ v : Int, v < 0 ∨ 2 ^ 64 ≤ v → assemble (.seed v) = none) ∧
  (∀ o v : Int, 0 ≤ o → o < 8 → 0 ≤ v → v < 2 ^ 64 →
    ∃ w : CmdWord, assemble (.raw o v) = some [.word w] ∧ (w.toNat : Int) = v * 8 + o) ∧
  (∀ o v : Int, o < 0 ∨ 8 ≤ o ∨ v < 0 ∨ 2 ^ 64 ≤ v → assemble (.raw o v) = none) ∧
  assemble .next = some [.word 1] ∧ assemble .jump = some [.word 2] ∧ assemble .seeddef = some [.word 4] ∧
  assemble .qmin = some [.word 5] ∧ assemble .qmax = some [.word 6] ∧ assemble .illegal = some [.word 0] ∧
  assemble .reset = some [.reset]

/-- R210: a command offered to a ready block runs at the next edge; with `withFetchWord` the host offers it (assumption log 11).
That its effect stands at the accepting edge, its response held back, is the model's choice (assumption log 2). -/
def Obligations.OfferedCommandRunsAtNextEdge : Prop :=
  ∀ (s : State) (nbits w : Nat), w < 2 ^ nbits → w < 2 ^ 67 →
    decodeTableWord nbits w = some (decode (BitVec.ofNat 67 w)) ∧
    ∃ u : State,
      exec (decode (BitVec.ofNat 67 w))
          { s with rsp := .empty, busy := none, resetDone := true, draws := s.draws + 1 } = .next u ∧
      step (s.withFetchWord nbits w) = .next (u.holdResponse (latencyExtra s.lat (decode (BitVec.ofNat 67 w))))
end

