-- ==== Sys2Proof/Laws/Decode.lean ====
section
/-! SUPPORT. The fields of a packed command word. -/

namespace Sys2Proof

/-- Bit `i` of a packed word (R61). -/
theorem packCommand_getLsbD (op : BitVec 3) (imm : Word) (i : Nat) :
    (packCommand op imm).getLsbD i = if i < 3 then op.getLsbD i else imm.getLsbD (i - 3) := by
  have h := BitVec.getLsbD_append (x := imm) (y := op) (i := i)
  by_cases hi : i < 3 <;> simp only [hi, if_true, if_false] at h ⊢ <;> exact h

/-- The op field of a packed word (R61). -/
@[simp] theorem cmdOpField_pack (op : BitVec 3) (imm : Word) : cmdOpField (packCommand op imm) = op := by
  apply BitVec.eq_of_getLsbD_eq
  intro i hi
  simp [cmdOpField, packCommand_getLsbD, hi]

/-- The imm64 field of a packed word (R61). -/
@[simp] theorem cmdImmField_pack (op : BitVec 3) (imm : Word) : cmdImmField (packCommand op imm) = imm := by
  apply BitVec.eq_of_getLsbD_eq
  intro i hi
  simp [cmdImmField, packCommand_getLsbD, hi]

/-- A command word is its two fields (R61). -/
theorem pack_fields (w : CmdWord) : packCommand (cmdOpField w) (cmdImmField w) = w := by
  apply BitVec.eq_of_getLsbD_eq
  intro i hi
  rw [packCommand_getLsbD]
  split
  · simp [cmdOpField, *]
  · have h3 : 3 + (i - 3) = i := by omega
    have h64 : i - 3 < 64 := by omega
    simp [cmdImmField, h3, h64]

end Sys2Proof
end

