-- ==== Sys2Proof/Laws/Generator.lean ====
section
/-! SUPPORT. The evaluation aid of Machine/Generator.lean disappears, and JumpAhead is the loop of 43_jump_ahead.md R150. -/

namespace Sys2Proof.Machine

/-- `forceWord` changes nothing. -/
@[simp] theorem forceWord_eq {α : Type} (x : Word) (k : Word → α) : forceWord x k = k x := by
  have hx : BitVec.ofNat 64 x.toNat = x := by simp
  unfold forceWord
  split
  · next h => rw [← hx, h]
  · next n h => rw [← hx, h]

/-- `forceGen` changes nothing. -/
@[simp] theorem forceGen_eq {α : Type} (g : Gen) (k : Gen → α) : forceGen g k = k g := by
  simp [forceGen]

/-- JumpAhead is R150's double loop. -/
theorem jumpAhead_eq_foldl (g : Gen) :
    jumpAhead g = ((List.range 64).foldl (jumpIteration jump1)
      ((List.range 64).foldl (jumpIteration jump0) ⟨Gen.zero, g⟩)).accum := by
  simp only [jumpAhead, forceGen_eq, List.foldl_cons, List.foldl_nil, jumpWord]

/-- Construct is the jump of the SplitMix64 expansion (R110). -/
theorem construct_eq (seed : Word) : construct seed = jumpAhead (preJump seed) := by
  rw [construct, forceWord_eq]

end Sys2Proof.Machine
end

