-- ==== Sys2Proof/Laws/Linear.lean ====
section
/-! SUPPORT. The state map T of Next as a linear map over GF(2) (42_generate_next.md R137): XOR of states, the bits of a rotation,
polynomials in T as lists of coefficients, the polynomial of degree 128 that T satisfies, and multiplication of
polynomials modulo it. With these a power T^n is one polynomial of degree below 128, found by squaring. -/

namespace Sys2Proof.Machine.Linear

/-! ### XOR of states -/

theorem gen_ext {a b : Gen} (h0 : a.s0 = b.s0) (h1 : a.s1 = b.s1) : a = b := by
  cases a; cases b; simp_all

theorem xor_comm (a b : Gen) : a.xor b = b.xor a := gen_ext (BitVec.xor_comm ..) (BitVec.xor_comm ..)

theorem xor_assoc (a b c : Gen) : (a.xor b).xor c = a.xor (b.xor c) := gen_ext (BitVec.xor_assoc ..) (BitVec.xor_assoc ..)

theorem xor_zero (a : Gen) : a.xor Gen.zero = a := gen_ext (by simp [Gen.xor, Gen.zero]) (by simp [Gen.xor, Gen.zero])

theorem zero_xor (a : Gen) : Gen.zero.xor a = a := by rw [xor_comm, xor_zero]

theorem xor_self (a : Gen) : a.xor a = Gen.zero := gen_ext (by simp [Gen.xor, Gen.zero]) (by simp [Gen.xor, Gen.zero])

theorem xor_left_comm (a b c : Gen) : a.xor (b.xor c) = b.xor (a.xor c) := by
  rw [← xor_assoc, xor_comm a b, xor_assoc]

theorem eq_of_xor_eq_zero {a b : Gen} (h : a.xor b = Gen.zero) : a = b := by
  have : a.xor (b.xor b) = b := by rw [← xor_assoc, h, zero_xor]
  rwa [xor_self, xor_zero] at this

/-! ### Rotation and the map T -/

/-- Bit `i` of a rotation (00_scope.md R14). -/
theorem rotateLeft_getLsbD (x : Word) (k i : Nat) (hi : i < 64) :
    (rotateLeft x k).getLsbD i = if i < k then x.getLsbD (64 - k + i) else x.getLsbD (i - k) := by
  unfold rotateLeft
  rw [BitVec.getLsbD_or, BitVec.getLsbD_shiftLeft, BitVec.getLsbD_ushiftRight]
  split
  · next h => rw [decide_eq_true hi, decide_eq_true h]; cases x.getLsbD (64 - k + i) <;> rfl
  · next h =>
    have h2 : x.getLsbD (64 - k + i) = false := BitVec.getLsbD_of_ge _ _ (by omega)
    rw [h2, decide_eq_true hi, decide_eq_false h]
    cases x.getLsbD (i - k) <;> rfl

theorem rotateLeft_xor (x y : Word) (k : Nat) : rotateLeft (x ^^^ y) k = rotateLeft x k ^^^ rotateLeft y k := by
  apply BitVec.eq_of_getLsbD_eq
  intro i hi
  rw [BitVec.getLsbD_xor, rotateLeft_getLsbD _ _ _ hi, rotateLeft_getLsbD _ _ _ hi, rotateLeft_getLsbD _ _ _ hi]
  split <;> rw [BitVec.getLsbD_xor]

theorem xor3_xor3 (p q r p' q' r' : Word) :
    (p ^^^ p') ^^^ (q ^^^ q') ^^^ (r ^^^ r') = (p ^^^ q ^^^ r) ^^^ (p' ^^^ q' ^^^ r') := by
  ac_rfl

theorem xor2_xor2 (p q p' q' : Word) : (p ^^^ p') ^^^ (q ^^^ q') = (p ^^^ q) ^^^ (p' ^^^ q') := by
  ac_rfl

theorem advance_xor (a b : Gen) : advance (a.xor b) = (advance a).xor (advance b) := by
  have t : (a.s1 ^^^ b.s1) ^^^ (a.s0 ^^^ b.s0) = (a.s1 ^^^ a.s0) ^^^ (b.s1 ^^^ b.s0) := xor2_xor2 ..
  apply gen_ext
  · simp only [advance, generateNext, Gen.xor]
    rw [t, rotateLeft_xor, BitVec.shiftLeft_xor_distrib]
    exact xor3_xor3 ..
  · simp only [advance, generateNext, Gen.xor]
    rw [t, rotateLeft_xor]

theorem advance_zero : advance Gen.zero = Gen.zero := by decide

theorem iterate_advance_xor (n : Nat) (a b : Gen) : advance^[n] (a.xor b) = (advance^[n] a).xor (advance^[n] b) := by
  induction n generalizing a b with
  | zero => rfl
  | succ n ih => rw [Function.iterate_succ_apply, advance_xor, ih]; rfl

/-! ### Induction over states -/

/-- A property of 0 and the one-bit words that XOR keeps holds of every word. -/
theorem word_xor_induction (Q : Word → Prop) (h0 : Q 0) (hx : ∀ a b, Q a → Q b → Q (a ^^^ b))
    (hb : ∀ i, i < 64 → Q (BitVec.twoPow 64 i)) (x : Word) : Q x := by
  have low : ∀ n, n ≤ 64 → ∃ y, Q y ∧ ∀ i, y.getLsbD i = (decide (i < n) && x.getLsbD i) := by
    intro n
    induction n with
    | zero => intro _; exact ⟨0, h0, by intro i; simp⟩
    | succ n ih =>
      intro hn
      obtain ⟨y, hy, hyb⟩ := ih (by omega)
      cases hc : x.getLsbD n with
      | false =>
        refine ⟨y, hy, fun i => ?_⟩
        rw [hyb]
        by_cases h : i = n
        · subst h; simp [hc]
        · have : (i < n) = (i < n + 1) := by simp; omega
          simp [this]
      | true =>
        refine ⟨y ^^^ BitVec.twoPow 64 n, hx _ _ hy (hb n (by omega)), fun i => ?_⟩
        rw [BitVec.getLsbD_xor, hyb, BitVec.getLsbD_twoPow]
        by_cases h : i = n
        · subst h; simp [hc]; omega
        · have : (i < n) = (i < n + 1) := by simp; omega
          have h2 : ¬ n = i := fun e => h e.symm
          simp [this, h2]
  obtain ⟨y, hy, hyb⟩ := low 64 (le_refl _)
  have : y = x := by
    apply BitVec.eq_of_getLsbD_eq
    intro i hi
    rw [hyb]
    simp [hi]
  rwa [← this]

/-- A property of the zero state and the 128 basis states that XOR keeps holds of every state. -/
theorem gen_xor_induction (Q : Gen → Prop) (h0 : Q Gen.zero) (hx : ∀ a b, Q a → Q b → Q (a.xor b))
    (hb0 : ∀ i, i < 64 → Q ⟨BitVec.twoPow 64 i, 0⟩) (hb1 : ∀ i, i < 64 → Q ⟨0, BitVec.twoPow 64 i⟩) (g : Gen) : Q g := by
  have a := word_xor_induction (fun x => Q ⟨x, 0⟩) h0
    (fun a b ha hb => by have := hx _ _ ha hb; simpa [Gen.xor] using this) hb0 g.s0
  have b := word_xor_induction (fun x => Q ⟨0, x⟩) h0
    (fun a b ha hb => by have := hx _ _ ha hb; simpa [Gen.xor] using this) hb1 g.s1
  have := hx _ _ a b
  simpa [Gen.xor] using this

/-! ### Polynomials in T -/

/-- A state or the zero state. -/
def pick (b : Bool) (g : Gen) : Gen := if b then g else Gen.zero

theorem pick_xor_left (a b : Bool) (g : Gen) : pick (a ^^ b) g = (pick a g).xor (pick b g) := by
  cases a <;> cases b <;> simp [pick, xor_zero, zero_xor, xor_self]

theorem pick_xor_right (a : Bool) (g h : Gen) : pick a (g.xor h) = (pick a g).xor (pick a h) := by
  cases a <;> simp [pick, xor_zero]

theorem advance_pick (b : Bool) (g : Gen) : advance (pick b g) = pick b (advance g) := by
  cases b <;> simp [pick, advance_zero]

/-- The polynomial in T with these coefficients, that of T^0 first, applied to a state. -/
def act (bits : List Bool) (g : Gen) : Gen :=
  match bits with
  | [] => Gen.zero
  | b :: rest => (pick b g).xor (advance (act rest g))

theorem act_xor (l : List Bool) (g h : Gen) : act l (g.xor h) = (act l g).xor (act l h) := by
  induction l with
  | nil => simp [act, xor_zero]
  | cons b l ih =>
    simp only [act, ih, pick_xor_right, advance_xor]
    rw [xor_assoc, xor_assoc, xor_left_comm (pick b h)]

theorem act_advance (l : List Bool) (g : Gen) : act l (advance g) = advance (act l g) := by
  induction l with
  | nil => simp [act, advance_zero]
  | cons b l ih => simp only [act, ih, advance_xor, advance_pick]

theorem act_append_singleton (l : List Bool) (b : Bool) (g : Gen) :
    act (l ++ [b]) g = (act l g).xor (pick b (advance^[l.length] g)) := by
  induction l with
  | nil => simp [act, advance_zero, xor_zero, zero_xor]
  | cons c l ih =>
    simp only [List.cons_append, act, ih, advance_xor, advance_pick, List.length_cons, Function.iterate_succ_apply', xor_assoc]

/-- The low `n` bits of a number, as the coefficients of a polynomial. -/
def bitsOf (n p : Nat) : List Bool := (List.range n).map p.testBit

theorem bitsOf_length (n p : Nat) : (bitsOf n p).length = n := by simp [bitsOf]

theorem bitsOf_succ (n p : Nat) : bitsOf (n + 1) p = p.testBit 0 :: bitsOf n (p / 2) := by
  simp [bitsOf, List.range_succ_eq_map, Nat.testBit_succ]

theorem act_bitsOf_succ (n p : Nat) (g : Gen) :
    act (bitsOf (n + 1) p) g = (act (bitsOf n p) g).xor (pick (p.testBit n) (advance^[n] g)) := by
  have : bitsOf (n + 1) p = bitsOf n p ++ [p.testBit n] := by simp [bitsOf, List.range_succ]
  rw [this, act_append_singleton, bitsOf_length]

theorem act_bitsOf_zero (n : Nat) (g : Gen) : act (bitsOf n 0) g = Gen.zero := by
  induction n with
  | zero => rfl
  | succ n ih => rw [act_bitsOf_succ, ih]; simp [pick, xor_zero]

theorem act_bitsOf_xor (n p q : Nat) (g : Gen) :
    act (bitsOf n (p ^^^ q)) g = (act (bitsOf n p) g).xor (act (bitsOf n q) g) := by
  induction n with
  | zero => simp [bitsOf, act, xor_zero]
  | succ n ih =>
    simp only [act_bitsOf_succ, ih, Nat.testBit_xor, pick_xor_left]
    rw [xor_assoc, xor_assoc, xor_left_comm (act (bitsOf n q) g)]

theorem act_bitsOf_double (n p : Nat) (g : Gen) : act (bitsOf (n + 1) (2 * p)) g = advance (act (bitsOf n p) g) := by
  have : (2 * p).testBit 0 = false := by simp
  rw [bitsOf_succ]
  simp [act, pick, zero_xor, this]

/-! ### The polynomial of T -/

/-- T^128 as a polynomial of degree below 128 (computed outside the model, and checked below on the 128 basis states). -/
def charPolyLow : Nat := 0x653ced7f29f88a5fd66762f0e1c001

/-- `acc` plus the polynomial `p` with `n` coefficients plus T^n, applied to a state, in one pass over T's iterates. -/
def evalPoly (p : Nat) : Nat → Gen → Gen → Gen
  | 0, acc, g => acc.xor g
  | n + 1, acc, g =>
    forceGen acc fun acc => forceGen g fun g => evalPoly (p / 2) n (if p % 2 = 1 then acc.xor g else acc) (advance g)

theorem evalPoly_eq (n p : Nat) (acc g : Gen) :
    evalPoly p n acc g = (acc.xor (act (bitsOf n p) g)).xor (advance^[n] g) := by
  induction n generalizing p acc g with
  | zero => simp [evalPoly, bitsOf, act, xor_zero]
  | succ n ih =>
    rw [evalPoly, forceGen_eq, forceGen_eq, ih, bitsOf_succ, act, act_advance, Function.iterate_succ_apply]
    congr 1
    rw [← xor_assoc]
    congr 1
    have : p.testBit 0 = decide (p % 2 = 1) := by simp [Nat.testBit_zero]
    by_cases h : p % 2 = 1 <;> simp [this, h, pick, xor_zero]

/-- Whether the polynomial vanishes on all basis states. -/
def basisVanishes : Bool :=
  (List.range 64).all fun i =>
    evalPoly charPolyLow 128 Gen.zero ⟨BitVec.twoPow 64 i, 0⟩ == Gen.zero &&
      evalPoly charPolyLow 128 Gen.zero ⟨0, BitVec.twoPow 64 i⟩ == Gen.zero

set_option maxRecDepth 100000 in
theorem basisVanishes_true : basisVanishes = true := by decide +kernel

/-- T^128 is the polynomial `charPolyLow` in T. -/
theorem iterate_advance_128 (g : Gen) : advance^[128] g = act (bitsOf 128 charPolyLow) g := by
  have key : ∀ g, evalPoly charPolyLow 128 Gen.zero g = Gen.zero := by
    have hb := basisVanishes_true
    simp only [basisVanishes, List.all_eq_true, List.mem_range, Bool.and_eq_true, beq_iff_eq] at hb
    apply gen_xor_induction
    · decide +kernel
    · intro a b ha hb
      rw [evalPoly_eq] at *
      rw [zero_xor] at *
      rw [act_xor, iterate_advance_xor, eq_of_xor_eq_zero ha, eq_of_xor_eq_zero hb, xor_self]
    · exact fun i hi => (hb i hi).1
    · exact fun i hi => (hb i hi).2
  have := key g
  rw [evalPoly_eq, zero_xor] at this
  exact (eq_of_xor_eq_zero this).symm

/-! ### Multiplication of polynomials modulo the polynomial of T -/

/-- Times T. -/
def timesT (p : Nat) : Nat := if p.testBit 127 then (2 * (p % 2 ^ 127)) ^^^ charPolyLow else 2 * p

theorem act_timesT (p : Nat) (g : Gen) : act (bitsOf 128 (timesT p)) g = advance (act (bitsOf 128 p) g) := by
  have low : bitsOf 127 (p % 2 ^ 127) = bitsOf 127 p := by
    simp only [bitsOf]
    apply List.map_congr_left
    intro i hi
    rw [List.mem_range] at hi
    rw [Nat.testBit_mod_two_pow]
    simp only [hi, decide_true, Bool.true_and]
  unfold timesT
  cases h : p.testBit 127 with
  | false =>
    simp only [Bool.false_eq_true, if_false]
    rw [act_bitsOf_double 127, act_bitsOf_succ 127, h]
    simp [pick, xor_zero]
  | true =>
    simp only [if_true]
    rw [act_bitsOf_xor, act_bitsOf_double 127, low, act_bitsOf_succ 127 p, h, advance_xor]
    congr 1
    simp only [pick, if_true]
    rw [← iterate_advance_128, Function.iterate_succ_apply']

/-- The product of `a`, of `n` coefficients, and `b`. -/
def mulMod (n a b : Nat) : Nat :=
  match n with
  | 0 => 0
  | n + 1 => (if a % 2 = 1 then b else 0) ^^^ timesT (mulMod n (a / 2) b)

/-- A product acts as one polynomial after the other. -/
theorem act_mulMod (n a b : Nat) (g : Gen) :
    act (bitsOf 128 (mulMod n a b)) g = act (bitsOf n a) (act (bitsOf 128 b) g) := by
  induction n generalizing a with
  | zero => rw [mulMod, act_bitsOf_zero]; rfl
  | succ n ih =>
    rw [mulMod, act_bitsOf_xor, act_timesT, ih, bitsOf_succ n a, act]
    congr 1
    generalize hz : act (bitsOf 128 b) g = z
    have hb : a.testBit 0 = decide (a % 2 = 1) := Nat.testBit_zero ..
    by_cases h : a % 2 = 1
    · rw [if_pos h, hb, decide_eq_true h, hz]; rfl
    · rw [if_neg h, hb, decide_eq_false h, act_bitsOf_zero]; rfl

end Sys2Proof.Machine.Linear
end

