-- ==== Sys2Proof/Laws/State.lean ====
section
/-! SUPPORT. One lemma per field per update of State, so that no later proof unfolds a record update. -/

namespace Sys2Proof.Machine

variable (s : State)

/-! ### setGen -/

@[simp] theorem State.setGen_gen (g : Gen) : (s.setGen g).gen = g := rfl
@[simp] theorem State.setGen_rsp (g : Gen) : (s.setGen g).rsp = s.rsp := rfl
@[simp] theorem State.setGen_busy (g : Gen) : (s.setGen g).busy = s.busy := rfl
@[simp] theorem State.setGen_resetDone (g : Gen) : (s.setGen g).resetDone = s.resetDone := rfl
@[simp] theorem State.setGen_lat (g : Gen) : (s.setGen g).lat = s.lat := rfl
@[simp] theorem State.setGen_illegalMark (g : Gen) : (s.setGen g).illegalMark = s.illegalMark := rfl
@[simp] theorem State.setGen_inputs (g : Gen) : (s.setGen g).inputs = s.inputs := rfl
@[simp] theorem State.setGen_draws (g : Gen) : (s.setGen g).draws = s.draws := rfl

/-! ### respond -/

@[simp] theorem State.respond_gen (data : Word) (err : Bool) : (s.respond data err).gen = s.gen := rfl
@[simp] theorem State.respond_rsp (data : Word) (err : Bool) : (s.respond data err).rsp = .full data err := rfl
@[simp] theorem State.respond_busy (data : Word) (err : Bool) : (s.respond data err).busy = s.busy := rfl
@[simp] theorem State.respond_resetDone (data : Word) (err : Bool) : (s.respond data err).resetDone = s.resetDone := rfl
@[simp] theorem State.respond_lat (data : Word) (err : Bool) : (s.respond data err).lat = s.lat := rfl
@[simp] theorem State.respond_illegalMark (data : Word) (err : Bool) : (s.respond data err).illegalMark = s.illegalMark := rfl
@[simp] theorem State.respond_inputs (data : Word) (err : Bool) : (s.respond data err).inputs = s.inputs := rfl
@[simp] theorem State.respond_draws (data : Word) (err : Bool) : (s.respond data err).draws = s.draws := rfl

/-! ### raiseIllegalCommand -/

@[simp] theorem State.raiseIllegalCommand_gen : (s.raiseIllegalCommand).gen = s.gen := rfl
@[simp] theorem State.raiseIllegalCommand_rsp : (s.raiseIllegalCommand).rsp = .full 0 true := rfl
@[simp] theorem State.raiseIllegalCommand_busy : (s.raiseIllegalCommand).busy = s.busy := rfl
@[simp] theorem State.raiseIllegalCommand_resetDone : (s.raiseIllegalCommand).resetDone = s.resetDone := rfl
@[simp] theorem State.raiseIllegalCommand_lat : (s.raiseIllegalCommand).lat = s.lat := rfl
@[simp] theorem State.raiseIllegalCommand_illegalMark : (s.raiseIllegalCommand).illegalMark = true := rfl
@[simp] theorem State.raiseIllegalCommand_inputs : (s.raiseIllegalCommand).inputs = s.inputs := rfl
@[simp] theorem State.raiseIllegalCommand_draws : (s.raiseIllegalCommand).draws = s.draws := rfl

/-! ### applyReset -/

@[simp] theorem State.applyReset_gen : (s.applyReset).gen = construct defaultSeed := rfl
@[simp] theorem State.applyReset_rsp : (s.applyReset).rsp = .empty := rfl
@[simp] theorem State.applyReset_busy : (s.applyReset).busy = none := rfl
@[simp] theorem State.applyReset_resetDone : (s.applyReset).resetDone = true := rfl
@[simp] theorem State.applyReset_lat : (s.applyReset).lat = s.lat := rfl
@[simp] theorem State.applyReset_illegalMark : (s.applyReset).illegalMark = s.illegalMark := rfl
@[simp] theorem State.applyReset_inputs : (s.applyReset).inputs = s.inputs := rfl
@[simp] theorem State.applyReset_draws : (s.applyReset).draws = s.draws := rfl

/-! ### acceptResponse -/

@[simp] theorem State.acceptResponse_gen : (s.acceptResponse).gen = s.gen := rfl
@[simp] theorem State.acceptResponse_rsp : (s.acceptResponse).rsp = .empty := rfl
@[simp] theorem State.acceptResponse_busy : (s.acceptResponse).busy = s.busy := rfl
@[simp] theorem State.acceptResponse_resetDone : (s.acceptResponse).resetDone = s.resetDone := rfl
@[simp] theorem State.acceptResponse_lat : (s.acceptResponse).lat = s.lat := rfl
@[simp] theorem State.acceptResponse_illegalMark : (s.acceptResponse).illegalMark = s.illegalMark := rfl
@[simp] theorem State.acceptResponse_inputs : (s.acceptResponse).inputs = s.inputs := rfl
@[simp] theorem State.acceptResponse_draws : (s.acceptResponse).draws = s.draws := rfl

/-! ### tick -/

@[simp] theorem State.tick_gen : (s.tick).gen = s.gen := rfl
@[simp] theorem State.tick_rsp : (s.tick).rsp = s.rsp := rfl
@[simp] theorem State.tick_busy : (s.tick).busy = s.busy := rfl
@[simp] theorem State.tick_resetDone : (s.tick).resetDone = s.resetDone := rfl
@[simp] theorem State.tick_lat : (s.tick).lat = s.lat := rfl
@[simp] theorem State.tick_illegalMark : (s.tick).illegalMark = s.illegalMark := rfl
@[simp] theorem State.tick_inputs : (s.tick).inputs = s.inputs.tail := rfl
@[simp] theorem State.tick_draws : (s.tick).draws = s.draws + 1 := rfl

/-! ### losePower -/

@[simp] theorem State.losePower_gen : (s.losePower).gen = Config.powerOnGen s.draws := rfl
@[simp] theorem State.losePower_rsp : (s.losePower).rsp = Config.powerOnRsp s.draws := rfl
@[simp] theorem State.losePower_busy : (s.losePower).busy = Config.powerOnBusy s.draws := rfl
@[simp] theorem State.losePower_resetDone : (s.losePower).resetDone = false := rfl
@[simp] theorem State.losePower_lat : (s.losePower).lat = s.lat := rfl
@[simp] theorem State.losePower_illegalMark : (s.losePower).illegalMark = s.illegalMark := rfl
@[simp] theorem State.losePower_inputs : (s.losePower).inputs = s.inputs := rfl
@[simp] theorem State.losePower_draws : (s.losePower).draws = s.draws := rfl

/-! ### holdResponse -/

@[simp] theorem State.holdResponse_gen (n : Nat) : (s.holdResponse n).gen = s.gen := by unfold State.holdResponse; split <;> rfl
@[simp] theorem State.holdResponse_resetDone (n : Nat) : (s.holdResponse n).resetDone = s.resetDone := by unfold State.holdResponse; split <;> rfl
@[simp] theorem State.holdResponse_lat (n : Nat) : (s.holdResponse n).lat = s.lat := by unfold State.holdResponse; split <;> rfl
@[simp] theorem State.holdResponse_illegalMark (n : Nat) : (s.holdResponse n).illegalMark = s.illegalMark := by unfold State.holdResponse; split <;> rfl
@[simp] theorem State.holdResponse_inputs (n : Nat) : (s.holdResponse n).inputs = s.inputs := by unfold State.holdResponse; split <;> rfl
@[simp] theorem State.holdResponse_draws (n : Nat) : (s.holdResponse n).draws = s.draws := by unfold State.holdResponse; split <;> rfl

/-! ### advanceBusy -/

@[simp] theorem State.advanceBusy_gen (f : InFlight) : (s.advanceBusy f).gen = s.gen := by unfold State.advanceBusy; split <;> rfl
@[simp] theorem State.advanceBusy_resetDone (f : InFlight) : (s.advanceBusy f).resetDone = s.resetDone := by unfold State.advanceBusy; split <;> rfl
@[simp] theorem State.advanceBusy_lat (f : InFlight) : (s.advanceBusy f).lat = s.lat := by unfold State.advanceBusy; split <;> rfl
@[simp] theorem State.advanceBusy_illegalMark (f : InFlight) : (s.advanceBusy f).illegalMark = s.illegalMark := by unfold State.advanceBusy; split <;> rfl
@[simp] theorem State.advanceBusy_inputs (f : InFlight) : (s.advanceBusy f).inputs = s.inputs := by unfold State.advanceBusy; split <;> rfl
@[simp] theorem State.advanceBusy_draws (f : InFlight) : (s.advanceBusy f).draws = s.draws := by unfold State.advanceBusy; split <;> rfl

/-- With L = 1 nothing is held back (R266). -/
@[simp] theorem State.holdResponse_zero : s.holdResponse 0 = s := by
  cases h : s.rsp <;> simp [State.holdResponse]

/-- With L > 1 the response goes from RSP to the block's flight (R266). -/
theorem State.holdResponse_succ (n : Nat) (data : Word) (err : Bool) (h : s.rsp = .full data err) :
    s.holdResponse (n + 1) = { s with rsp := .empty, busy := some ⟨data, err, n⟩ } := by
  simp [State.holdResponse, h]

/-- At its edge the response enters RSP and the block is IDLE (R31). -/
@[simp] theorem State.advanceBusy_zero (data : Word) (err : Bool) :
    s.advanceBusy ⟨data, err, 0⟩ = { s with rsp := .full data err, busy := none } := rfl

/-- Before its edge the block only counts down (R31, R266). -/
@[simp] theorem State.advanceBusy_succ (data : Word) (err : Bool) (n : Nat) :
    s.advanceBusy ⟨data, err, n + 1⟩ = { s with busy := some ⟨data, err, n⟩ } := rfl

end Sys2Proof.Machine
end

