-- ==== Sys2Proof/Laws/Ops.lean ====
section
/-! SUPPORT. What each shared operation, each meaning, a clock edge and a step can do, said once. Provers cite these lemmas instead of
unfolding the definitions. -/

namespace Sys2Proof.Machine

/-! ### Outcomes -/

@[simp] theorem mapNext_next (s : State) (f : State → State) : mapNext (.next s) f = .next (f s) := rfl
@[simp] theorem mapNext_fault (r : Fault) (f : State → State) : mapNext (.fault r) f = .fault r := rfl
@[simp] theorem mapNext_refused (r : Refusal) (f : State → State) : mapNext (.refused r) f = .refused r := rfl

/-- A mapped outcome is a next state exactly when the outcome was. -/
theorem mapNext_eq_next_iff (o : Host.Outcome State Fault Refusal) (f : State → State) (t : State) :
    mapNext o f = .next t ↔ ∃ u, o = .next u ∧ t = f u := by
  cases o <;> simp [mapNext, eq_comm]

/-! ### The frame of every command -/

/-- After a reset a command has its effect. -/
theorem command_of_resetDone (s : State) (effect : State → State) (h : s.resetDone = true) :
    command s effect = .next (effect s) := by
  simp [command, h]

/-- Before the first reset a command is a fault (R254). -/
theorem command_of_not_resetDone (s : State) (effect : State → State) (h : s.resetDone = false) :
    command s effect = .fault .commandBeforeReset := by
  simp [command, h]

/-- All a command can do. -/
theorem command_eq_next_iff (s : State) (effect : State → State) (t : State) :
    command s effect = .next t ↔ s.resetDone = true ∧ t = effect s := by
  cases h : s.resetDone <;> simp [command, h, eq_comm]

/-! ### The effect of each command -/

/-- The new S0 and S1 of a command (R24). -/
def effectGen (i : Instr) (g : Gen) : Gen :=
  match i with
  | .reserved0 _ => g
  | .next _ => advance g
  | .jump _ => jumpAhead g
  | .seed imm => construct imm
  | .seeddef _ => construct defaultSeed
  | .qmin _ => g
  | .qmax _ => g
  | .reserved7 _ => g

/-- The response data of a command (R65). -/
def effectData (i : Instr) (g : Gen) : Word :=
  match i with
  | .next _ => nextOutput g
  | .qmax _ => maxValue
  | .reserved0 _ | .jump _ | .seed _ | .seeddef _ | .qmin _ | .reserved7 _ => 0

/-- The reserved opcodes (R66). -/
def isReserved (i : Instr) : Bool :=
  match i with
  | .reserved0 _ | .reserved7 _ => true
  | .next _ | .jump _ | .seed _ | .seeddef _ | .qmin _ | .qmax _ => false

/-- The whole effect of a command after a reset. -/
def effectState (i : Instr) (s : State) : State :=
  { s with
    gen := effectGen i s.gen
    rsp := .full (effectData i s.gen) (isReserved i)
    illegalMark := s.illegalMark || isReserved i }

@[simp] theorem effectState_gen (i : Instr) (s : State) : (effectState i s).gen = effectGen i s.gen := rfl
@[simp] theorem effectState_rsp (i : Instr) (s : State) :
    (effectState i s).rsp = .full (effectData i s.gen) (isReserved i) := rfl
@[simp] theorem effectState_busy (i : Instr) (s : State) : (effectState i s).busy = s.busy := rfl
@[simp] theorem effectState_resetDone (i : Instr) (s : State) : (effectState i s).resetDone = s.resetDone := rfl
@[simp] theorem effectState_lat (i : Instr) (s : State) : (effectState i s).lat = s.lat := rfl
@[simp] theorem effectState_illegalMark (i : Instr) (s : State) :
    (effectState i s).illegalMark = (s.illegalMark || isReserved i) := rfl
@[simp] theorem effectState_inputs (i : Instr) (s : State) : (effectState i s).inputs = s.inputs := rfl
@[simp] theorem effectState_draws (i : Instr) (s : State) : (effectState i s).draws = s.draws := rfl

/-- A command that writes a state and answers 0; for any state, so that no kernel check evaluates a construction. -/
theorem command_setGen_respond (s : State) (g : Gen) :
    command s (fun s => (s.setGen g).respond 0 errNone)
      = command s fun s => { s with gen := g, rsp := .full 0 false, illegalMark := s.illegalMark || false } := by
  simp [command, State.setGen, State.respond, errNone]

/-- Every meaning is the one frame over its effect. -/
theorem exec_eq_command (i : Instr) (s : State) : exec i s = command s (effectState i) := by
  cases i with
  | reserved0 v =>
    simp [exec, execReserved0, command, effectState, effectGen, effectData, isReserved, State.raiseIllegalCommand,
      State.respond, errIllegalCommand]
  | next v =>
    simp [exec, execNext, command, effectState, effectGen, effectData, isReserved, State.setGen, State.respond, advance,
      nextOutput, errNone]
  | jump v =>
    simp [exec, execJump, command, effectState, effectGen, effectData, isReserved, State.setGen, State.respond, errNone]
  | seed v => exact command_setGen_respond s (construct v)
  | seeddef v => exact command_setGen_respond s (construct defaultSeed)
  | qmin v => simp [exec, execQmin, command, effectState, effectGen, effectData, isReserved, State.respond, minValue, errNone]
  | qmax v => simp [exec, execQmax, command, effectState, effectGen, effectData, isReserved, State.respond, errNone]
  | reserved7 v =>
    simp [exec, execReserved7, command, effectState, effectGen, effectData, isReserved, State.raiseIllegalCommand,
      State.respond, errIllegalCommand]

/-- After a reset every command completes, with its effect. -/
theorem exec_of_resetDone (i : Instr) (s : State) (h : s.resetDone = true) : exec i s = .next (effectState i s) := by
  rw [exec_eq_command, command_of_resetDone s _ h]

/-- All a command can do, as an inversion. -/
theorem exec_eq_next_iff (i : Instr) (s t : State) :
    exec i s = .next t ↔ s.resetDone = true ∧ t = effectState i s := by
  rw [exec_eq_command, command_eq_next_iff]

/-- No instruction is refused. -/
theorem exec_ne_refused (i : Instr) (s : State) (r : Refusal) : exec i s ≠ .refused r := by
  rw [exec_eq_command]
  cases h : s.resetDone <;> simp [command, h]

/-! ### The clock edge, case by case -/

/-- Reset wins (R204, R250). -/
theorem clockEdge_reset (p : PortsIn) (s : State) (h : p.rst = true) : clockEdge p s = .next s.applyReset := by
  simp [clockEdge, h]

/-- Before the first reset (R254). -/
theorem clockEdge_unreset (p : PortsIn) (s : State) (hr : p.rst = false) (h : s.resetDone = false) :
    clockEdge p s = if p.cmdValid then .fault .commandBeforeReset else .next s := by
  simp [clockEdge, hr, h]

/-- A BUSY block goes on with its command (R31). -/
theorem clockEdge_busy (p : PortsIn) (s : State) (f : InFlight) (hr : p.rst = false) (h : s.resetDone = true)
    (hb : s.busy = some f) : clockEdge p s = .next (s.advanceBusy f) := by
  simp [clockEdge, hr, h, hb]

/-- A FULL RSP waits for the host (R263, R264). -/
theorem clockEdge_full (p : PortsIn) (s : State) (data : Word) (err : Bool) (hr : p.rst = false)
    (h : s.resetDone = true) (hb : s.busy = none) (hf : s.rsp = .full data err) :
    clockEdge p s = .next (if p.rspReady then s.acceptResponse else s) := by
  simp [clockEdge, hr, h, hb, hf]

/-- A ready block accepts an offered command (R260). -/
theorem clockEdge_ready (p : PortsIn) (s : State) (hr : p.rst = false) (h : s.resetDone = true)
    (hb : s.busy = none) (he : s.rsp = .empty) :
    clockEdge p s = if p.cmdValid then acceptCommand (decode p.cmdWord) s else .next s := by
  simp [clockEdge, hr, h, hb, he]

/-- An accepted command never stops: its effect, with the response held back. -/
theorem acceptCommand_eq (i : Instr) (s : State) (h : s.resetDone = true) :
    acceptCommand i s = .next ((effectState i s).holdResponse (latencyExtra s.lat i)) := by
  simp [acceptCommand, exec_eq_command, command, h]

/-- All a clock edge can do: if it answers next t, one of these cases holds. -/
theorem clockEdge_cases (p : PortsIn) (s t : State) (h : clockEdge p s = .next t) :
    (p.rst = true ∧ t = s.applyReset) ∨
    (p.rst = false ∧ s.resetDone = false ∧ p.cmdValid = false ∧ t = s) ∨
    (p.rst = false ∧ s.resetDone = true ∧ ∃ f, s.busy = some f ∧ t = s.advanceBusy f) ∨
    (p.rst = false ∧ s.resetDone = true ∧ s.busy = none ∧ ∃ data err, s.rsp = .full data err ∧
      ((p.rspReady = true ∧ t = s.acceptResponse) ∨ (p.rspReady = false ∧ t = s))) ∨
    (p.rst = false ∧ s.resetDone = true ∧ s.busy = none ∧ s.rsp = .empty ∧ p.cmdValid = false ∧ t = s) ∨
    (p.rst = false ∧ s.resetDone = true ∧ s.busy = none ∧ s.rsp = .empty ∧ p.cmdValid = true ∧
      t = (effectState (decode p.cmdWord) s).holdResponse (latencyExtra s.lat (decode p.cmdWord))) := by
  cases hr : p.rst with
  | true => exact .inl ⟨rfl, by simpa [clockEdge, hr, eq_comm] using h⟩
  | false =>
    cases hd : s.resetDone with
    | false => cases hv : p.cmdValid <;> simp_all [clockEdge]
    | true =>
      cases hb : s.busy with
      | some f => simp_all [clockEdge]
      | none =>
        cases hf : s.rsp with
        | full data err => cases ha : p.rspReady <;> simp_all [clockEdge]
        | empty => cases hv : p.cmdValid <;> simp_all [clockEdge, acceptCommand_eq]

/-! ### The step -/

/-- The ticked state when an input is used. -/
theorem State.tick_of_cons (s : State) (x : Input) (rest : List Input) (h : s.inputs = x :: rest) :
    s.tick = { s with inputs := rest, draws := s.draws + 1 } := by
  simp [State.tick, h]

/-- The ticked state when no input is left. -/
theorem State.tick_of_nil (s : State) (h : s.inputs = []) : s.tick = { s with draws := s.draws + 1 } := by
  cases s
  simp_all [State.tick]

/-- With no input left the clock ticks over idle ports. -/
theorem step_nil (s : State) (h : s.inputs = []) : step s = clockEdge PortsIn.idle s.tick := by
  simp [step, h]

/-- A clock edge. -/
theorem step_clock (s : State) (p : PortsIn) (rest : List Input) (h : s.inputs = .clock p :: rest) :
    step s = clockEdge p s.tick := by
  simp [step, h]

/-- A power loss. -/
theorem step_powerLoss (s : State) (rest : List Input) (h : s.inputs = .powerLoss :: rest) :
    step s = .next s.tick.losePower := by
  simp [step, h]

/-- A step is a clock edge at the current ports, or a power loss. -/
theorem step_cases (s t : State) (h : step s = .next t) :
    (s.inputs = [] ∧ clockEdge PortsIn.idle s.tick = .next t) ∨
    (∃ p rest, s.inputs = .clock p :: rest ∧ clockEdge p s.tick = .next t) ∨
    (∃ rest, s.inputs = .powerLoss :: rest ∧ t = s.tick.losePower) := by
  unfold step at h
  split at h
  · exact .inl ⟨‹_›, h⟩
  · exact .inr (.inl ⟨_, _, ‹_›, h⟩)
  · exact .inr (.inr ⟨_, ‹_›, by simpa [eq_comm] using h⟩)

/-- What every step does to the fields no port reaches. -/
theorem step_frame (s t : State) (h : step s = .next t) :
    t.lat = s.lat ∧ t.inputs = s.inputs.tail ∧ t.draws = s.draws + 1 := by
  have edge : ∀ p, clockEdge p s.tick = .next t →
      t.lat = s.lat ∧ t.inputs = s.inputs.tail ∧ t.draws = s.draws + 1 := by
    intro p hp
    rcases clockEdge_cases p s.tick t hp with
      ⟨-, rfl⟩ | ⟨-, -, -, rfl⟩ | ⟨-, -, f, -, rfl⟩ | ⟨-, -, -, d, e, -, ⟨-, rfl⟩ | ⟨-, rfl⟩⟩ |
      ⟨-, -, -, -, -, rfl⟩ | ⟨-, -, -, -, -, rfl⟩ <;> simp
  rcases step_cases s t h with ⟨-, hp⟩ | ⟨p, rest, -, hp⟩ | ⟨rest, -, rfl⟩
  · exact edge _ hp
  · exact edge p hp
  · simp

/-- A run of any machine begins with its first step. -/
theorem run_succ_of_next (M : Host.Core) (n : Nat) (s t : M.State) (h : M.step s = .next t) :
    M.run (n + 1) s = M.run n t := by
  simp only [Host.Core.run, h]

/-- A run of the machine begins with its first step. -/
theorem run_succ_of_step (n : Nat) (s t : State) (h : step s = .next t) :
    Host.Core.run Sys2Proof.core (n + 1) s = Host.Core.run Sys2Proof.core n t :=
  run_succ_of_next Sys2Proof.core n s t h

/-! ### The handshake signals -/

/-- cmd_ready as a proposition (R261). -/
theorem cmdReady_iff (s : State) (rst : Bool) :
    s.cmdReady rst = true ↔ rst = false ∧ s.busy = none ∧ s.rsp = .empty := by
  cases rst <;> cases hb : s.busy <;> cases hf : s.rsp <;> simp [State.cmdReady, rspIsFull, hb, hf]

/-- rsp_valid as a proposition (R262, R250). -/
theorem rspValid_iff (s : State) (rst : Bool) :
    s.rspValid rst = true ↔ rst = false ∧ ∃ data err, s.rsp = .full data err := by
  cases rst <;> cases hf : s.rsp <;> simp [State.rspValid, rspIsFull, hf]

end Sys2Proof.Machine
end

