-- ==== Sys2Proof/Laws/PerInstr.lean ====
section
/-! SUPPORT. Per-instruction statements: the family EncodeFields says that a command's word carries the row's op value and the
command's imm64 in their places (30_encoding.md R61, R63). -/

namespace Sys2Proof.Laws.EncodeFields

/-- The word of `i` has `i`'s op in bits 2:0 and its imm64 in bits 66:3. -/
def Statement (i : Instr) : Prop := cmdOpField (encode i) = i.op ∧ cmdImmField (encode i) = i.imm

theorem reserved0 (v : Word) : Statement (.reserved0 v) := by simp [Statement, encode]
theorem next (v : Word) : Statement (.next v) := by simp [Statement, encode]
theorem jump (v : Word) : Statement (.jump v) := by simp [Statement, encode]
theorem seed (v : Word) : Statement (.seed v) := by simp [Statement, encode]
theorem seeddef (v : Word) : Statement (.seeddef v) := by simp [Statement, encode]
theorem qmin (v : Word) : Statement (.qmin v) := by simp [Statement, encode]
theorem qmax (v : Word) : Statement (.qmax v) := by simp [Statement, encode]
theorem reserved7 (v : Word) : Statement (.reserved7 v) := by simp [Statement, encode]

end Sys2Proof.Laws.EncodeFields
end

