-- ==== Sys2Proof/Tests/Slice0.lean ====
section
/-! SUPPORT. Tests: ill-formed terms are refused, words written out from the encoding decode, single steps against the vectors of
95_test_vectors.md, and for every statement with hypotheses a state and operands that meet them. -/

namespace Sys2Proof.Tests

open Sys2Proof.Machine

/-! ### Helpers -/

/-- A reset block with another generator state. -/
def blockAt (a b : Word) : State := { State.reset with gen := ⟨a, b⟩ }

/-- A block with these inputs to come. -/
def blockWith (l : List Input) : State := { blockAt 1 0 with inputs := l }

/-- The new generator state and response, if the outcome is a next state. -/
def shown (o : Host.Outcome State Fault Refusal) : Option (Gen × Rsp) :=
  match o with
  | .next s => some (s.gen, s.rsp)
  | .fault _ => none
  | .refused _ => none

/-- A command offered, the host not taking a response. -/
def offer (w : CmdWord) : Input := .clock (offerWord w)

/-- Ports with rst = 1. -/
def rstPorts : PortsIn := { PortsIn.idle with rst := true }

/-- Ports with rsp_ready = 1. -/
def takePorts : PortsIn := { PortsIn.idle with rspReady := true }

/-! ### Well-formedness refuses ill-formed lines (R67, R68) -/

theorem test_wf_seed_negative : (Asm.seed (-1)).wellFormed = false := by decide
theorem test_wf_seed_too_large : (Asm.seed 18446744073709551616).wellFormed = false := by decide
theorem test_wf_raw_op_too_large : (Asm.raw 8 0).wellFormed = false := by decide
theorem test_wf_raw_op_negative : (Asm.raw (-1) 0).wellFormed = false := by decide
theorem test_wf_raw_imm_too_large : (Asm.raw 0 18446744073709551616).wellFormed = false := by decide
theorem test_wf_stream_imm_negative : (Asm.stream (-1) 0).wellFormed = false := by decide
theorem test_wf_stream_count_negative : (Asm.stream 0 (-1)).wellFormed = false := by decide
theorem test_wf_skip_negative : (Asm.skip (-1)).wellFormed = false := by decide
theorem test_wf_largest_operands :
    (Asm.raw 7 18446744073709551615).wellFormed = true ∧ (Asm.stream 18446744073709551615 0).wellFormed = true := by decide

/-! ### Decoding: words written out from R61 and R63, imm64 to the left, op in the three rightmost bits -/

theorem test_decode_reserved0 : decode 0b11000#67 = .reserved0 0b11 := by decide
theorem test_decode_next : decode 0b1001#67 = .next 0b1 := by decide
theorem test_decode_jump : decode 0b10010#67 = .jump 0b10 := by decide
theorem test_decode_seed : decode 0b101010011#67 = .seed 42 := by decide
theorem test_decode_seeddef : decode 0b101100#67 = .seeddef 0b101 := by decide
theorem test_decode_qmin : decode 0b0101#67 = .qmin 0 := by decide
theorem test_decode_qmax : decode 0b1110#67 = .qmax 1 := by decide
theorem test_decode_reserved7 : decode 0b1001000110100111#67 = .reserved7 0x1234 := by decide
theorem test_decode_imm_reaches_bit_66 : decode 0x40000000000000003 = .seed 0x8000000000000000 := by decide
theorem test_decodeTableWord : decodeTableWord 67 0x7FFFFFFFFFFFFFEB3 = some (.seed 0xFFFFFFFFFFFFFFD6) := by decide
theorem test_decodeTableWord_short : decodeTableWord 3 0b110 = some (.qmax 0) := by decide
theorem test_decodeNumber_too_wide : decodeNumber (2 ^ 67) = .error .widerThanCommandWord := by decide

/-! ### The arithmetic (95_test_vectors.md §2.1, §2.2) -/

theorem test_rotateLeft_VR4 : rotateLeft 0x0123456789ABCDEF 55 = 0xF78091A2B3C4D5E6 := by decide
theorem test_rotateLeft_VR5 : rotateLeft 0x0123456789ABCDEF 36 = 0x9ABCDEF012345678 := by decide
theorem test_splitMix64_VS5 : splitMix64Step 0xFFFFFFFFFFFFFFFF = (0x9E3779B97F4A7C14, 0xE4D971771B652C20) := by decide
theorem test_splitMix64_VS6 : splitMix64Step 0x123456789ABCDEF0 = (0xB06BD0321A075B05, 0x161922C645CE50E8) := by decide
theorem test_preJump_VC6 : preJump 42 = ⟨0x9E3779B97F4A7C3F, 0xBDD732262FEB6E95⟩ := by decide

/-! ### The commands (95_test_vectors.md §2.3 to §2.7) -/

/-- V-N5: the sum wraps to 0. -/
theorem test_next_VN5 : shown (exec (.next 0) (blockAt 0xFFFFFFFFFFFFFFFF 1)) =
    some (⟨0xFFFFFFFFFFFF8001, 0xFFFFFFEFFFFFFFFF⟩, .full 0 false) := by decide

/-- V-N8, with imm64 not 0. -/
theorem test_next_VN8 : shown (exec (.next 0xFFFFFFFFFFFFFFFF) (blockAt 0x0123456789ABCDEF 0xFEDCBA9876543210)) =
    some (⟨0xF78091A2B3C4EA19, 0xFFFFFFFFFFFFFFFF⟩, .full 0xFFFFFFFFFFFFFFFF false) := by decide

/-- V-J1, the example of R151. -/
theorem test_jump_VJ1 : shown (exec (.jump 0) (blockAt 1 0)) =
    some (⟨0x966F5509BB41F421, 0x5FCD7CB640A13B03⟩, .full 0 false) := by decide +kernel

/-- V-J5. -/
theorem test_jump_VJ5 : shown (exec (.jump 0) (blockAt 0x0123456789ABCDEF 0xFEDCBA9876543210)) =
    some (⟨0xBFDA63B357FC9180, 0x3E616852AEF48283⟩, .full 0 false) := by decide +kernel

/-- V-C2, the example of R111. -/
theorem test_seed_VC2 : shown (exec (.seed 0) (blockAt 5 6)) =
    some (⟨0x846AC48C09BF9FF6, 0xB761A8D0B7DD7275⟩, .full 0 false) := by decide +kernel

/-- V-C6. -/
theorem test_seed_VC6 : shown (exec (.seed 42) (blockAt 0 0)) =
    some (⟨0x1CE042C17E1B691D, 0x13FACB37E5A6EFCB⟩, .full 0 false) := by decide +kernel

/-- V-C1, the example of R112, with imm64 not 0. -/
theorem test_seeddef_VC1 : shown (exec (.seeddef 42) (blockAt 0 0)) =
    some (⟨0x484648A3CDA7FD32, 0x6F13E9E0E77DA828⟩, .full 0 false) := by decide +kernel

/-- V-Q3: imm64 ignored. -/
theorem test_qmin_VQ3 : shown (exec (decode 0x7FFFFFFFFFFFFFFFD) (blockAt 3 4)) = some (⟨3, 4⟩, .full 0 false) := by decide

/-- V-Q2: in the zero state. -/
theorem test_qmax_VQ2 : shown (exec (.qmax 0) (blockAt 0 0)) = some (⟨0, 0⟩, .full 0xFFFFFFFFFFFFFFFF false) := by decide

/-- V-E3. -/
theorem test_reserved0_VE3 : shown (exec (decode 0x7FFFFFFFFFFFFFFF8) (blockAt 3 4)) = some (⟨3, 4⟩, .full 0 true) := by decide

/-- V-E1. -/
theorem test_reserved7_VE1 : shown (exec (decode 0x000000000000091A7) (blockAt 0x484648A3CDA7FD32 0x6F13E9E0E77DA828)) =
    some (⟨0x484648A3CDA7FD32, 0x6F13E9E0E77DA828⟩, .full 0 true) := by decide

/-- R254: a command before the first reset. -/
theorem test_command_before_reset :
    (match exec (.next 0) { blockAt 1 0 with resetDone := false } with
      | .fault .commandBeforeReset => true
      | _ => false) = true := by decide

/-! ### The clock edge (95_test_vectors.md §2.9) -/

/-- Edge e1: NEXT accepted after reset, its response in RSP. -/
theorem test_edge_VH1 : shown (step (State.reset.withFetchWord 67 1)) =
    some (⟨0xD62148D1EE7A06E4, 0xADA551A2755A1432⟩, .full 0xB75A3284B525A55A false) := by decide +kernel

/-- Edge e2: the response is accepted, the QMAX offered beside it is not. -/
theorem test_edge_VH2 :
    shown (step
      { blockAt 0xD62148D1EE7A06E4 0xADA551A2755A1432 with
        rsp := .full 0xB75A3284B525A55A false, inputs := [.clock { offerWord 6 with rspReady := true }] }) =
    some (⟨0xD62148D1EE7A06E4, 0xADA551A2755A1432⟩, .empty) := by decide

/-- Edge e4: the host stalls, RSP is held. -/
theorem test_edge_VH4 :
    shown (step { blockAt 3 4 with rsp := .full 0xFFFFFFFFFFFFFFFF false }) =
    some (⟨3, 4⟩, .full 0xFFFFFFFFFFFFFFFF false) := by decide

/-- R266 with L = 2: the accepting edge leaves RSP EMPTY. -/
theorem test_edge_latency_two :
    shown (step { blockWith [offer 6] with lat := ⟨0, 0, 0, 1, 0⟩ }) = some (⟨1, 0⟩, .empty) := by decide

/-! ### Assembler text (R67, R68) -/

theorem test_readLine_seed : readLine "  seed 42 ; forty-two".toList = .ok (some (.seed 42)) := by decide +kernel
theorem test_readLine_raw : readLine "RAW 7, 0x1234".toList = .ok (some (.raw 7 0x1234)) := by decide +kernel
theorem test_readLine_stream : readLine "Stream 0xFF, 2".toList = .ok (some (.stream 255 2)) := by decide +kernel
theorem test_readLine_negative : readLine "SEED -1".toList = .error .outOfRange := by decide +kernel
theorem test_readLine_too_large : readLine "SEED 18446744073709551616".toList = .error .outOfRange := by decide +kernel
theorem test_readLine_missing : readLine "SEED".toList = .error .badOperands := by decide +kernel
theorem test_readLine_unknown : readLine "ADD 1".toList = .error .unknownMnemonic := by decide +kernel
theorem test_assemble_stream : assemble (.stream 42 2) = some [.word 0x153, .word 2, .word 2] := by decide

/-! ### Witnesses: states and operands that meet a statement's hypotheses, one for each clause -/

/-- The block after accepting a command with L = 3: BUSY. -/
def busyBlock : State := { blockAt 1 0 with busy := some ⟨7, false, 1⟩ }

/-- A block with a response pending and these inputs to come. -/
def fullBlock (l : List Input) : State := { blockWith l with rsp := .full 7 true }

/-- A block before its first reset. -/
def unresetBlock (l : List Input) : State := { blockWith l with resetDone := false }

theorem ready_blockWith (l : List Input) : (blockWith l).ready := ⟨rfl, rfl, rfl⟩
theorem handshakeInv_fullBlock (l : List Input) : (fullBlock l).handshakeInv := by
  intro _ h
  cases h
theorem handshakeInv_busyBlock : busyBlock.handshakeInv := fun _ _ => rfl
theorem blockWith_completes (i : Instr) (l : List Input) : ∃ t, exec i (blockWith l) = .next t := ⟨_, exec_of_resetDone i _ rfl⟩

/-- One word for each op value, with imm64 all zeros and all ones. -/
theorem witness_DecodeFollowsOpcodeMap :
    (0x0 : CmdWord).extractLsb' 0 3 = 0b000#3 ∧ (0x1 : CmdWord).extractLsb' 0 3 = 0b001#3 ∧
    (0x2 : CmdWord).extractLsb' 0 3 = 0b010#3 ∧ (0x3 : CmdWord).extractLsb' 0 3 = 0b011#3 ∧
    (0x7FFFFFFFFFFFFFFFC : CmdWord).extractLsb' 0 3 = 0b100#3 ∧ (0x7FFFFFFFFFFFFFFFD : CmdWord).extractLsb' 0 3 = 0b101#3 ∧
    (0x7FFFFFFFFFFFFFFFE : CmdWord).extractLsb' 0 3 = 0b110#3 ∧
    (0x7FFFFFFFFFFFFFFFF : CmdWord).extractLsb' 0 3 = 0b111#3 := by decide

theorem witness_ResponseWordPacksFields : responseEvent (fullBlock []) takePorts = true := by decide

theorem witness_DecodeEncodeInverse : (Instr.seed 0xFFFFFFFFFFFFFFFF).wellFormed = true := rfl

theorem witness_SeedOperandTakenWholeOthersIgnored :
    (0x7FFFFFFFFFFFFFFFB : CmdWord).extractLsb' 0 3 = 0b011#3 ∧ (0x4 : CmdWord).extractLsb' 0 3 = 0b100#3 ∧
    (blockAt 1 0).resetDone = true ∧
    (0x1 : CmdWord).extractLsb' 0 3 = (0x7FFFFFFFFFFFFFFF9 : CmdWord).extractLsb' 0 3 ∧
    (0x7FFFFFFFFFFFFFFF9 : CmdWord).extractLsb' 0 3 ≠ 0b011#3 := by decide

theorem witness_NextReturnsSumAndAdvances :
    (0x1 : CmdWord).extractLsb' 0 3 = 0b001#3 ∧ (blockAt 0xFFFFFFFFFFFFFFFF 1).resetDone = true := by decide

theorem witness_QueriesAnswerBounds :
    (0x5 : CmdWord).extractLsb' 0 3 = 0b101#3 ∧ (0x6 : CmdWord).extractLsb' 0 3 = 0b110#3 ∧
    (blockAt 0 0).resetDone = true := by decide

theorem witness_JumpAccumulatesSelectedStates :
    (0x2 : CmdWord).extractLsb' 0 3 = 0b010#3 ∧ (blockAt 1 0).resetDone = true := by decide

theorem witness_SeedCommandsConstruct :
    (0x3 : CmdWord).extractLsb' 0 3 = 0b011#3 ∧ (0x4 : CmdWord).extractLsb' 0 3 = 0b100#3 ∧
    (blockAt 1 0).resetDone = true ∧ ∃ t, exec (.seed 0) (blockWith []) = .next t :=
  ⟨by decide, by decide, rfl, blockWith_completes _ _⟩

theorem witness_ReservedOpcodesRaiseIllegalCommand :
    (0x0 : CmdWord).extractLsb' 0 3 = 0b000#3 ∧ (0x91A7 : CmdWord).extractLsb' 0 3 = 0b111#3 ∧
    (blockAt 1 0).resetDone = true ∧ (blockAt 1 0).busy = none ∧
    (offerWord 1).rst = false ∧ (offerWord 1).cmdValid = true := by decide

theorem witness_EveryCommandRespondsAsTabled : (blockAt 1 0).resetDone = true := rfl

theorem witness_CommandsChangeOnlyGenAndRsp : ∀ i : Instr, ∃ t, exec i (blockWith []) = .next t :=
  fun _ => blockWith_completes _ _

theorem witness_ReadersAndWritersOfState :
    (∃ t, exec (.qmin 0) (blockWith []) = .next t) ∧ (∃ t, exec (.qmax 0) (blockWith []) = .next t) ∧
    (∃ t, exec (.reserved0 0) (blockWith []) = .next t) ∧ (∃ t, exec (.reserved7 0) (blockWith []) = .next t) ∧
    rstPorts.rst = true :=
  ⟨blockWith_completes _ _, blockWith_completes _ _, blockWith_completes _ _, blockWith_completes _ _, rfl⟩

theorem witness_IdempotentCommands : ∀ i : Instr, ∃ t, exec i (blockWith []) = .next t :=
  fun _ => blockWith_completes _ _

theorem witness_FirstValueAfterConstruction : (blockAt 1 0).resetDone = true := rfl

theorem witness_RotateLeftMovesBits : (1 ≤ 1 ∧ 1 ≤ 63) ∧ (1 ≤ 63 ∧ 63 ≤ 63) ∧ 63 < 64 := by decide

theorem witness_NonZeroStatesFormOneCycle : (⟨1, 0⟩ : Gen) ≠ Gen.zero ∧ (⟨0, 0x8000000000000000⟩ : Gen) ≠ Gen.zero := by
  decide

theorem witness_NeighbourStreamsDisjoint : construct 0 ≠ Gen.zero ∧ 0 < 2 ^ 64 ∧ 2 ^ 64 - 1 < 2 ^ 64 := by decide +kernel

/-- An accepted command; a valid command while RSP is FULL, BUSY; no valid command while ready. -/
theorem witness_StepRunsAcceptedCommand :
    ((blockWith [offer 1]).inputs = .clock (offerWord 1) :: [] ∧ (blockWith [offer 1]).resetDone = true ∧
      (offerWord 1).rst = false ∧ (offerWord 1).cmdValid = true ∧ (blockWith [offer 1]).cmdReady (offerWord 1).rst = true) ∧
    ((fullBlock [offer 1]).inputs = .clock (offerWord 1) :: [] ∧ (fullBlock [offer 1]).resetDone = true ∧
      (fullBlock [offer 1]).cmdReady (offerWord 1).rst = false ∧ (offerWord 6).rst = false ∧
      (offerWord 6).rspReady = (offerWord 1).rspReady) ∧
    busyBlock.cmdReady false = false ∧
    (takePorts.rst = false ∧ takePorts.cmdValid = false ∧ (blockWith [.clock takePorts]).cmdReady takePorts.rst = true) := by
  decide

/-- A reset of an idle block, of a BUSY one, with a response pending, and before the first reset. -/
theorem witness_ResetEdgeLoadsResetState :
    rstPorts.rst = true ∧ (blockWith [.clock rstPorts]).inputs = [.clock rstPorts] ∧
    (State.inputs { busyBlock with inputs := [.clock rstPorts] }) = [.clock rstPorts] ∧
    (fullBlock [.clock rstPorts]).inputs = [.clock rstPorts] ∧ (unresetBlock [.clock rstPorts]).inputs = [.clock rstPorts] ∧
    busyBlock.resetDone = true := by decide

theorem witness_CommandAcceptedRightAfterReset :
    (unresetBlock [.clock rstPorts, offer 1]).inputs = .clock rstPorts :: .clock (offerWord 1) :: [] ∧
    rstPorts.rst = true ∧ (offerWord 1).rst = false ∧ (offerWord 1).cmdValid = true := by decide

theorem witness_CmdReadyExactlyWhenIdleAndEmpty : busyBlock.resetDone = true ∧ (blockAt 1 0).resetDone = true := ⟨rfl, rfl⟩

theorem witness_ResponseShownAndHeld :
    (fullBlock []).resetDone = true ∧ (fullBlock []).rsp = .full 7 true ∧
    (blockAt 1 0).resetDone = true ∧ (blockAt 1 0).rsp = .empty ∧
    (fullBlock [offer 1]).handshakeInv ∧ (fullBlock [offer 1]).inputs = offer 1 :: [] ∧ inputHostWaits (offer 1) ∧
    (fullBlock []).handshakeInv ∧ (fullBlock []).inputs = [] :=
  ⟨rfl, rfl, rfl, rfl, handshakeInv_fullBlock _, rfl, ⟨rfl, rfl⟩, handshakeInv_fullBlock _, rfl⟩

theorem witness_AcceptedResponseEmptiesRsp :
    (fullBlock [.clock takePorts]).resetDone = true ∧ (fullBlock [.clock takePorts]).handshakeInv ∧
    (fullBlock [.clock takePorts]).rsp = .full 7 true ∧ (fullBlock [.clock takePorts]).inputs = .clock takePorts :: [] ∧
    takePorts.rst = false ∧ takePorts.rspReady = true ∧
    (blockWith [.clock takePorts]).rsp = .empty ∧ (blockWith [.clock takePorts]).inputs = .clock takePorts :: [] :=
  ⟨rfl, handshakeInv_fullBlock _, rfl, rfl, rfl, rfl, rfl, rfl⟩

theorem witness_BlockWaitsForHostForever :
    (fullBlock [offer 1]).resetDone = true ∧ (fullBlock [offer 1]).handshakeInv ∧ (fullBlock [offer 1]).rsp = .full 7 true ∧
    ∀ x ∈ (fullBlock [offer 1]).inputs, inputHostWaits x := by
  refine ⟨rfl, handshakeInv_fullBlock _, rfl, ?_⟩
  intro x hx
  obtain rfl := List.mem_singleton.1 hx
  exact ⟨rfl, rfl⟩

/-- A command with L = 3, two idle edges following, and one with L = 1. -/
theorem witness_ResponseEntersAfterLatency :
    ∃ s : State, s.ready ∧ s.inputs = offer 1 :: [.clock PortsIn.idle, .clock PortsIn.idle] ∧ latencyCycles s.lat (decode 1) = 3 ∧
      (offerWord 1).rst = false ∧ (offerWord 1).cmdValid = true ∧
      (∃ u, exec (decode (offerWord 1).cmdWord) s = .next u) ∧
      (∀ x ∈ [Input.clock PortsIn.idle, Input.clock PortsIn.idle].take (latencyExtra s.lat (decode (offerWord 1).cmdWord)),
        ∃ q : PortsIn, x = .clock q ∧ q.rst = false) ∧ (1 ≤ 2 ∧ 2 < 3) := by
  refine ⟨{ blockWith [offer 1, .clock PortsIn.idle, .clock PortsIn.idle] with lat := ⟨2, 0, 0, 0, 0⟩ }, ⟨rfl, rfl, rfl⟩, rfl,
    by decide, rfl, rfl, ⟨_, exec_of_resetDone _ _ rfl⟩, ?_, by decide⟩
  intro x hx
  have hx := List.mem_of_mem_take hx
  simp only [List.mem_cons, List.not_mem_nil, or_false, or_self] at hx
  exact ⟨_, hx, rfl⟩

theorem witness_ResponseEntersAfterLatency_step : ∃ t, step (blockWith [offer 1]) = .next t := ⟨_, rfl⟩

theorem witness_EdgeEventsExcludeEachOther :
    resetEvent rstPorts = true ∧ commandEvent (blockWith []) (offerWord 1) = true ∧ (fullBlock []).handshakeInv ∧
    responseEvent (fullBlock []) takePorts = true :=
  ⟨rfl, rfl, handshakeInv_fullBlock _, rfl⟩

theorem witness_CommandBeforeFirstResetFaults :
    (unresetBlock [offer 1]).resetDone = false ∧ (unresetBlock [offer 1]).inputs = .clock (offerWord 1) :: [] ∧
    (offerWord 1).rst = false ∧ (offerWord 1).cmdValid = true := ⟨rfl, rfl, rfl, rfl⟩

theorem witness_IdleBlockHoldsPowerLossForgets :
    (blockWith [.clock takePorts]).ready ∧ (blockWith [.clock takePorts]).inputs = .clock takePorts :: [] ∧
    takePorts.rst = false ∧ takePorts.cmdValid = false ∧ (blockWith [.powerLoss]).inputs = .powerLoss :: [] :=
  ⟨ready_blockWith _, rfl, rfl, rfl, rfl⟩

/-- A NEXT that changes S0 and S1. -/
theorem witness_GenChangesOnlyByItsWriters :
    ∃ t, step (blockWith [offer 1]) = .next t ∧ t.gen ≠ (blockWith [offer 1]).gen := ⟨_, rfl, by decide⟩

theorem witness_ZeroStateStaysZero :
    (blockAt 0 0).resetDone = true ∧ (blockAt 0 0).gen = Gen.zero ∧
    ∃ s : State, s.gen = Gen.zero ∧ (∃ t, step s = .next t) ∧
      ∀ x ∈ s.inputs.head?, ∃ p : PortsIn, x = .clock p ∧ p.rst = false ∧
        (commandEvent s p = true → ∀ v : Word, decode p.cmdWord ≠ .seed v ∧ decode p.cmdWord ≠ .seeddef v) := by
  refine ⟨rfl, rfl, { blockAt 0 0 with inputs := [offer 1] }, rfl, ⟨_, rfl⟩, ?_⟩
  intro x hx
  refine ⟨offerWord 1, (by simpa using hx.symm : x = offer 1), rfl, fun _ v => ?_⟩
  have : decode (offerWord 1).cmdWord = .next 0 := by decide
  rw [this]
  exact ⟨nofun, nofun⟩

theorem witness_IllegalMarkSetOnlyByReservedOpcode :
    (∃ t, step (blockWith [offer 0]) = .next t ∧ t.illegalMark = true) ∧
    (∃ t, step (blockWith [offer 1]) = .next t ∧ t.illegalMark = false) := ⟨⟨_, rfl, rfl⟩, ⟨_, rfl, rfl⟩⟩

theorem witness_StepKeepsHandshakeInv : busyBlock.handshakeInv ∧ ∃ t, step busyBlock = .next t :=
  ⟨handshakeInv_busyBlock, _, rfl⟩

theorem witness_StepKeepsNonZeroInv : (blockWith [offer 1]).nonZeroInv ∧ ∃ t, step (blockWith [offer 1]) = .next t := by
  refine ⟨⟨rfl, by decide, ?_⟩, _, rfl⟩
  intro x hx
  obtain rfl := List.mem_singleton.1 hx
  intro _
  decide

/-- Equal hardware, different model fields. -/
theorem witness_EqualHardwareRunsEqual :
    State.sameHardware (fullBlock [offer 1]) { fullBlock [offer 1] with illegalMark := true, draws := 5 } ∧
    (∀ x ∈ (fullBlock [offer 1]).inputs, x ≠ .powerLoss) ∧ (fullBlock [offer 1]).resetDone = true ∧
    (fullBlock [offer 1]).rsp = .full 7 true := by
  refine ⟨⟨rfl, rfl, rfl, rfl, rfl, rfl⟩, ?_, rfl, rfl⟩
  intro x hx
  obtain rfl := List.mem_singleton.1 hx
  exact nofun

theorem witness_StreamAndSkipReachTheirStates :
    immInRange 18446744073709551615 = true ∧
    (∃ s : State, s.ready ∧ s.inputs = driveAll s.lat (expand (.stream 18446744073709551615 2)) ++ []) ∧
    (∃ s : State, s.ready ∧ s.inputs = driveAll s.lat (expand (.skip 2)) ++ []) :=
  ⟨by decide,
    ⟨blockWith (driveAll Latencies.oneCycle (expand (.stream 18446744073709551615 2))), ready_blockWith _, by
      rw [List.append_nil]; rfl⟩,
    ⟨blockWith (driveAll Latencies.oneCycle (expand (.skip 2))), ready_blockWith _, by rw [List.append_nil]; rfl⟩⟩

/-- Two instances, the first one stepped, and a second system that agrees on it. -/
theorem witness_InstancesShareNothing :
    ∃ (y y' : System) (k : Fin y.blocks.length) (k' : Fin y'.blocks.length) (z : System),
      y.blocks.length = 2 ∧ y'.blocks.length = 1 ∧ y.blocks.get k = y'.blocks.get k' ∧ y.stepAt k = .next z :=
  ⟨⟨[blockWith [offer 5], busyBlock]⟩, ⟨[blockWith [offer 5]]⟩, 0, 0, _, rfl, rfl, rfl, rfl⟩

theorem witness_AssemblerEncodesOrRefuses :
    ((0 : Int) ≤ 18446744073709551615 ∧ (18446744073709551615 : Int) < 2 ^ 64) ∧ (-1 : Int) < 0 ∧
    (2 : Int) ^ 64 ≤ 18446744073709551616 ∧ ((0 : Int) ≤ 7 ∧ (7 : Int) < 8) ∧ (8 : Int) ≤ 8 := by decide

theorem witness_OfferedCommandRunsAtNextEdge : 0x7FFFFFFFFFFFFFFFF < 2 ^ 67 ∧ (5 < 2 ^ 3 ∧ 5 < 2 ^ 67) := by decide

end Sys2Proof.Tests
end

section
/-! PROOFS. The word rotation of the datapath (00_scope.md R14): where its bits come from, and its inverse. -/

namespace Sys2Proof.Proofs.Rotation
open Sys2Proof.Machine Sys2Proof.Machine.Linear

/-- R14's bit rule: the two branches of the OR are one index modulo 64. -/
theorem rotateLeft_getLsbD_mod (x : Word) {k i : Nat} (hk : k ≤ 64) (hi : i < 64) :
    (rotateLeft x k).getLsbD i = x.getLsbD ((i + 64 - k) % 64) := by
  rw [rotateLeft_getLsbD x k i hi]
  split
  · next wraps =>
    have index : (i + 64 - k) % 64 = 64 - k + i := by omega
    rw [index]
  · next shifts =>
    have index : (i + 64 - k) % 64 = i - k := by omega
    rw [index]

/-- A rotation by `k` is undone by the rotation by `64 - k`: on a bit index the two moves add up to a multiple of 64. -/
theorem rotateLeft_rotateLeft_sub (x : Word) {k : Nat} (hk : k ≤ 64) :
    rotateLeft (rotateLeft x k) (64 - k) = x := by
  apply BitVec.eq_of_getLsbD_eq
  intro i hi
  have inner : (i + 64 - (64 - k)) % 64 < 64 := Nat.mod_lt _ (by decide)
  have index : ((i + 64 - (64 - k)) % 64 + 64 - k) % 64 = i := by omega
  rw [rotateLeft_getLsbD_mod _ (Nat.sub_le 64 k) hi, rotateLeft_getLsbD_mod x hk inner, index]

/-- Settles O19: the formula is the definition, the bit rule and the round trip are the two lemmas above. -/
theorem rotateLeftMovesBits : Obligations.RotateLeftMovesBits := by
  intro x k _ hk
  have hk64 : k ≤ 64 := by omega
  exact ⟨rfl, fun _ hi => rotateLeft_getLsbD_mod x hk64 hi, rotateLeft_rotateLeft_sub x hk64⟩

end Sys2Proof.Proofs.Rotation
end

section
/-! PROOFS. Powers of the state map T as polynomials of degree below 128 (43_jump_ahead.md R153), found by repeated squaring, and the jump
as one of them. The kernel computes these powers, so `shiftT` and `mulT` do the work of `timesT` and `mulMod` (Laws/Linear.lean) without
a case split, and name the operations on numbers that the kernel computes at once. -/

namespace Sys2Proof.Proofs.Powers
open Sys2Proof.Machine Sys2Proof.Machine.Linear

/-! ### Multiplication of polynomials, for the kernel -/

/-- Times T without a case split: bit 127 multiplies the polynomial of T. The carry above bit 127 is left in place; `bitsOf 128` does not
read it. -/
def shiftT (p : Nat) : Nat :=
  Nat.xor (Nat.mul 2 p) (Nat.mul (Nat.mod (Nat.div p 0x80000000000000000000000000000000) 2) charPolyLow)

theorem act_shiftT (p : Nat) (g : Gen) : act (bitsOf 128 (shiftT p)) g = advance (act (bitsOf 128 p) g) := by
  have carry : shiftT p = (2 * p) ^^^ ((p.testBit 127).toNat * charPolyLow) := by
    rw [Nat.toNat_testBit]; rfl
  rw [carry, act_bitsOf_xor, act_bitsOf_double 127, act_bitsOf_succ 127 p, advance_xor]
  congr 1
  cases p.testBit 127 with
  | false => simp [pick, act_bitsOf_zero, advance_zero]
  | true => simp only [pick, Bool.toNat_true, one_mul, if_true, ← iterate_advance_128, ← Function.iterate_succ_apply']

/-- The product of `a`, of `n` coefficients, and `b`, by `shiftT`. -/
def mulT (n a b : Nat) : Nat :=
  match n with
  | 0 => 0
  | n + 1 => Nat.xor (Nat.mul (Nat.mod a 2) b) (shiftT (mulT n (Nat.div a 2) b))

theorem act_mulT (n a b : Nat) (g : Gen) :
    act (bitsOf 128 (mulT n a b)) g = act (bitsOf n a) (act (bitsOf 128 b) g) := by
  induction n generalizing a with
  | zero => exact act_bitsOf_zero 128 g
  | succ n ih =>
    have low : mulT (n + 1) a b = ((a.testBit 0).toNat * b) ^^^ shiftT (mulT n (a / 2) b) := by
      rw [Nat.toNat_testBit, pow_zero, Nat.div_one]; rfl
    rw [low, act_bitsOf_xor, act_shiftT, ih, bitsOf_succ n a, act]
    congr 1
    cases a.testBit 0 with
    | false => simp [pick, act_bitsOf_zero]
    | true => simp [pick]

theorem bitsOf_mod_two_pow (n p : Nat) : bitsOf n (p % 2 ^ n) = bitsOf n p :=
  List.map_congr_left fun i hi => by simp [Nat.testBit_mod_two_pow, List.mem_range.1 hi]

/-- T^e as a polynomial, for `e` of `n` bits, by repeated squaring. -/
def powT (n e : Nat) : Nat :=
  match n with
  | 0 => 1
  | n + 1 =>
    let square := mulT 128 (powT n (e / 2)) (powT n (e / 2)) % 2 ^ 128
    if e % 2 = 1 then shiftT square else square

theorem act_one (g : Gen) : act (bitsOf 128 1) g = g := by
  have pad : bitsOf 128 1 = true :: bitsOf 127 0 := by decide
  rw [pad, act, act_bitsOf_zero, advance_zero, xor_zero]
  rfl

theorem act_powT (n e : Nat) (he : e < 2 ^ n) (g : Gen) : act (bitsOf 128 (powT n e)) g = advance^[e] g := by
  induction n generalizing e g with
  | zero =>
    obtain rfl : e = 0 := by omega
    exact act_one g
  | succ n ih =>
    have half : e / 2 < 2 ^ n := by omega
    have square : act (bitsOf 128 (mulT 128 (powT n (e / 2)) (powT n (e / 2)) % 2 ^ 128)) g = advance^[e / 2 + e / 2] g := by
      rw [bitsOf_mod_two_pow, act_mulT, ih _ half, ih _ half, Function.iterate_add_apply]
    rw [powT]
    split
    · next odd =>
      have he : e = e / 2 + e / 2 + 1 := by omega
      rw [act_shiftT, square, ← Function.iterate_succ_apply' advance, Nat.succ_eq_add_one, ← he]
    · next even =>
      have he : e = e / 2 + e / 2 := by omega
      rw [square, ← he]

theorem act_genZero (l : List Bool) : act l Gen.zero = Gen.zero := by
  have double := act_xor l Gen.zero Gen.zero
  rwa [Linear.xor_self, Linear.xor_self] at double

/-- A polynomial with an inverse has no kernel. -/
theorem eq_zero_of_act_eq_zero {p q : Nat} (hq : mulT 128 q p % 2 ^ 128 = 1) {g : Gen}
    (h : act (bitsOf 128 p) g = Gen.zero) : g = Gen.zero := by
  have inverse : act (bitsOf 128 q) (act (bitsOf 128 p) g) = g := by
    rw [← act_mulT, ← bitsOf_mod_two_pow, hq, act_one]
  rw [← inverse, h, act_genZero]


/-! ### The jump -/

theorem act_append (l m : List Bool) (g : Gen) : act (l ++ m) g = (act l g).xor (act m (advance^[l.length] g)) := by
  induction l with
  | nil => exact (zero_xor _).symm
  | cons b l ih =>
    rw [List.cons_append, act, act, ih, advance_xor, xor_assoc, ← act_advance m, ← Function.iterate_succ_apply' advance,
      List.length_cons]

/-- The loop of one jump constant (43_jump_ahead.md R150), stopped after `n` bits. -/
theorem foldl_jumpIteration (c : Word) (n : Nat) (e : JumpEngine) :
    (List.range n).foldl (jumpIteration c) e =
      ⟨e.accum.xor (act (bitsOf n c.toNat) e.work), advance^[n] e.work⟩ := by
  induction n with
  | zero => simp [bitsOf, act, xor_zero]
  | succ n ih =>
    rw [List.range_succ, List.foldl_append, ih, act_bitsOf_succ, ← xor_assoc, Function.iterate_succ_apply']
    cases hc : c.toNat.testBit n <;> simp [jumpIteration, BitVec.getLsbD, hc, pick, xor_zero]

/-- JumpAhead is the polynomial whose coefficients are the bits of {JUMP1, JUMP0} (43_jump_ahead.md R152). -/
theorem jumpAhead_eq_act (g : Gen) :
    jumpAhead g = act (bitsOf 64 jump0.toNat ++ bitsOf 64 jump1.toNat) g := by
  rw [jumpAhead_eq_foldl, foldl_jumpIteration, foldl_jumpIteration, act_append, bitsOf_length, zero_xor]

theorem powT_two_pow_64 : bitsOf 128 (powT 65 (2 ^ 64)) = bitsOf 64 jump0.toNat ++ bitsOf 64 jump1.toNat := by
  decide +kernel

/-- One jump is 2^64 Nexts (43_jump_ahead.md R153): JUMP0 and JUMP1 are the coefficients of T^(2^64). -/
theorem jumpAhead_eq_iterate (g : Gen) : jumpAhead g = advance^[2 ^ 64] g := by
  rw [jumpAhead_eq_act, ← powT_two_pow_64, act_powT 65 _ (by norm_num)]

end Sys2Proof.Proofs.Powers
end

section
/-! PROOFS. The cycle of the generator (10_state.md R36). T^(2^128 - 1) is the identity, and for each prime factor p of 2^128 - 1 the
polynomial of T^((2^128 - 1) / p) + 1 has an inverse, so no non-zero state has a shorter period; the orbit of a non-zero state is
then as large as the set of all non-zero states. -/

namespace Sys2Proof.Proofs.Period
open Sys2Proof.Machine Sys2Proof.Machine.Linear Sys2Proof.Proofs.Powers

/-! ### The prime factors of 2^128 - 1 -/

/-- The largest of them; 3 is a primitive root. -/
theorem prime_67280421310721 : Nat.Prime 67280421310721 := by
  have factors : 67280421310721 - 1 = (List.replicate 8 2 ++ [5, 47, 373, 2998279]).prod := by norm_num
  refine lucas_primality _ 3 (by reduce_mod_char) fun q hq hdvd => ?_
  have hmem : q ∈ List.replicate 8 2 ++ [5, 47, 373, 2998279] :=
    mem_list_primes_of_dvd_prod hq.prime (by norm_num [← Nat.prime_iff]) (factors ▸ hdvd)
  have values : q = 2 ∨ q = 5 ∨ q = 47 ∨ q = 373 ∨ q = 2998279 := by simpa using hmem
  rcases values with rfl | rfl | rfl | rfl | rfl <;> reduce_mod_char <;> decide

/-- Each prime factor `q` of 2^128 - 1 with the inverse of the polynomial of T^((2^128 - 1) / q) + 1 (computed outside the model; checked in
`inverse_of_mem_primesWithInverses`). -/
def primesWithInverses : List (Nat × Nat) :=
  [(3, 0xff8cefb76846895353ca0f0fe69d9ac1), (5, 0x44746645e1e994f5f0fe77cc421dfaaa),
    (17, 0x32c47704c6cdf7931acf2a818a19f62d), (257, 0x96f288cba5870497fd983bf5d14bdbeb),
    (641, 0xa7e437605ed5e3ae3e409dba24fc1dcd), (65537, 0xecb57a9ef6f5a6fff4387293b32f3b0c),
    (274177, 0xe9e260cf9faf324aeb4d0d5da638cf50), (6700417, 0x14ca8334099b25f5a6585d516b1fd6f1),
    (67280421310721, 0x139bd4d8ba1f6134c128219c7d36e79d)]

theorem prime_of_mem_primesWithInverses : ∀ c ∈ primesWithInverses, c.1.Prime := by
  simp only [primesWithInverses, List.forall_mem_cons]
  exact ⟨by norm_num, by norm_num, by norm_num, by norm_num, by norm_num, by norm_num, by norm_num, by norm_num,
    prime_67280421310721, List.forall_mem_nil _⟩

theorem mem_primesWithInverses_of_prime {p : Nat} (hp : p.Prime) (h : p ∣ 2 ^ 128 - 1) :
    ∃ r, (p, r) ∈ primesWithInverses := by
  have factors : 2 ^ 128 - 1 = (primesWithInverses.map Prod.fst).prod := by norm_num [primesWithInverses]
  have primes : ∀ q ∈ primesWithInverses.map Prod.fst, Prime q :=
    List.forall_mem_map.2 fun c hc => (prime_of_mem_primesWithInverses c hc).prime
  rw [factors] at h
  obtain ⟨⟨_, r⟩, hr, rfl⟩ := List.mem_map.1 (mem_list_primes_of_dvd_prod hp.prime primes h)
  exact ⟨r, hr⟩

theorem inverse_of_mem_primesWithInverses :
    ∀ c ∈ primesWithInverses, mulT 128 c.2 (powT 128 ((2 ^ 128 - 1) / c.1) ^^^ 1) % 2 ^ 128 = 1 := by
  decide +kernel

/-! ### The period -/

/-- T^(2^128 - 1) is the identity. -/
theorem isPeriodicPt_advance (g : Gen) : Function.IsPeriodicPt advance (2 ^ 128 - 1) g := by
  have one : powT 128 (2 ^ 128 - 1) % 2 ^ 128 = 1 := by decide +kernel
  rw [Function.IsPeriodicPt, Function.IsFixedPt, ← act_powT 128 _ (by norm_num), ← bitsOf_mod_two_pow, one, act_one]

/-- No non-zero state comes back after (2^128 - 1) / p steps, for a prime p. -/
theorem not_isPeriodicPt_advance_div {g : Gen} (hg : g ≠ Gen.zero) {p : Nat} (hp : p.Prime) (h : p ∣ 2 ^ 128 - 1) :
    ¬ Function.IsPeriodicPt advance ((2 ^ 128 - 1) / p) g := by
  intro back
  obtain ⟨r, hr⟩ := mem_primesWithInverses_of_prime hp h
  apply hg
  apply eq_zero_of_act_eq_zero (inverse_of_mem_primesWithInverses _ hr)
  have small : (2 ^ 128 - 1) / p < 2 ^ 128 := (Nat.div_le_self _ _).trans_lt (by norm_num)
  rw [act_bitsOf_xor, act_one, act_powT 128 _ small, back.eq, Linear.xor_self]

/-- A period `n` is the least one when no `n / p`, for a prime `p`, is a period. -/
theorem minimalPeriod_eq_of_forall_prime {α : Type*} {f : α → α} {x : α} {n : Nat}
    (period : Function.IsPeriodicPt f n x) (least : ∀ p, p.Prime → p ∣ n → ¬ Function.IsPeriodicPt f (n / p) x) :
    Function.minimalPeriod f x = n := by
  obtain ⟨k, hk⟩ := period.minimalPeriod_dvd
  by_contra hne
  have k_ne_one : k ≠ 1 := fun h1 => hne (by rw [hk, h1, mul_one])
  obtain ⟨p, hp, m, rfl⟩ := Nat.exists_prime_and_dvd k_ne_one
  have quotient : n / p = Function.minimalPeriod f x * m := by
    rw [Nat.div_eq_iff_eq_mul_left hp.pos ⟨_, hk.trans (Nat.mul_left_comm ..)⟩, hk]; ring
  refine least p hp ⟨_, hk.trans (Nat.mul_left_comm ..)⟩ ?_
  exact Function.isPeriodicPt_iff_minimalPeriod_dvd.2 ⟨m, quotient⟩

/-- The orbit of a non-zero state has length 2^128 - 1 (10_state.md R36). -/
theorem minimalPeriod_advance {g : Gen} (hg : g ≠ Gen.zero) : Function.minimalPeriod advance g = 2 ^ 128 - 1 :=
  minimalPeriod_eq_of_forall_prime (isPeriodicPt_advance g)
    fun _ hp h => not_isPeriodicPt_advance_div hg hp h

theorem iterate_advance_eq_self_iff {g : Gen} (hg : g ≠ Gen.zero) (n : Nat) :
    advance^[n] g = g ↔ 2 ^ 128 - 1 ∣ n := by
  rw [← minimalPeriod_advance hg]
  exact Function.isPeriodicPt_iff_minimalPeriod_dvd

theorem advance_injective : Function.Injective advance := by
  intro a b h
  have steps : 2 ^ 128 - 1 = 2 ^ 128 - 2 + 1 := by norm_num
  rw [← (isPeriodicPt_advance a).eq, ← (isPeriodicPt_advance b).eq, steps, Function.iterate_succ_apply,
    Function.iterate_succ_apply, h]

theorem iterate_advance_eq_zero_iff (n : Nat) (g : Gen) : advance^[n] g = Gen.zero ↔ g = Gen.zero := by
  have zero : advance^[n] Gen.zero = Gen.zero := Function.iterate_fixed advance_zero n
  rw [← (advance_injective.iterate n).eq_iff (a := g), zero]

/-! ### One cycle -/

/-- A state is its two words. -/
def genEquiv : Gen ≃ Word × Word where
  toFun g := (g.s0, g.s1)
  invFun p := ⟨p.1, p.2⟩
  left_inv _ := rfl
  right_inv _ := rfl

theorem finite_gen : Finite Gen := Finite.of_equiv _ genEquiv.symm

theorem card_gen : Nat.card Gen = 2 ^ 128 := by
  have word : Nat.card Word = 2 ^ 64 := (Nat.card_congr (BitVec.equivFin (m := 64)).toEquiv).trans (Nat.card_fin _)
  rw [Nat.card_congr genEquiv, Nat.card_prod, word, ← pow_add]

/-- The orbit of a non-zero state is all non-zero states: it has as many members. -/
theorem image_iterate_advance {g : Gen} (hg : g ≠ Gen.zero) :
    (fun n => advance^[n] g) '' Set.Iio (2 ^ 128 - 1) = {Gen.zero}ᶜ := by
  have := finite_gen
  have orbit := (Function.iterate_injOn_Iio_minimalPeriod (f := advance) (x := g)).ncard_image
  rw [minimalPeriod_advance hg] at orbit
  refine Set.eq_of_subset_of_ncard_le ?_ ?_
  · rintro _ ⟨n, -, rfl⟩
    exact mt (iterate_advance_eq_zero_iff n g).1 hg
  · rw [orbit, Set.ncard_compl, Set.ncard_singleton, card_gen]
    simp

/-- Settles O25: the least period, the orbit as a set, and `advance_zero`. -/
theorem nonZeroStatesFormOneCycle : Obligations.NonZeroStatesFormOneCycle := by
  refine ⟨fun g n hg => iterate_advance_eq_self_iff hg n, fun g h hg hh => ?_, advance_zero⟩
  have reached : h ∈ (fun n => advance^[n] g) '' Set.Iio (2 ^ 128 - 1) := by rwa [image_iterate_advance hg]
  exact reached

end Sys2Proof.Proofs.Period
end

section
/-! PROOFS. What a step does to the generator and to the reset flag, and from it the invariants: the handshake
(10_state.md R30, R31), the non-zero state (R25) and the writers of S0 and S1 (R24). -/

namespace Sys2Proof.Proofs.Steps
open Sys2Proof.Machine Sys2Proof.Proofs.Powers Sys2Proof.Proofs.Period

/-! ### A step as a clock edge -/

/-- A step is a power loss, or a clock edge at ports that are idle or come from the first input. -/
theorem step_powerLoss_or_edge {s t : State} (h : step s = .next t) :
    (∃ rest, s.inputs = .powerLoss :: rest ∧ t = s.tick.losePower) ∨
    (∃ p, clockEdge p s.tick = .next t ∧
      ((s.inputs = [] ∧ p = PortsIn.idle) ∨ ∃ rest, s.inputs = .clock p :: rest)) := by
  rcases step_cases s t h with ⟨hnil, hedge⟩ | ⟨p, rest, hcons, hedge⟩ | hloss
  · exact .inr ⟨_, hedge, .inl ⟨hnil, rfl⟩⟩
  · exact .inr ⟨p, hedge, .inr ⟨rest, hcons⟩⟩
  · exact .inl hloss

/-- The block accepts a command (70_reset_and_hazards.md R260, R261). -/
theorem commandEvent_iff (s : State) (p : PortsIn) :
    commandEvent s p = true ↔
      s.resetDone = true ∧ p.cmdValid = true ∧ p.rst = false ∧ s.busy = none ∧ s.rsp = .empty := by
  simp [commandEvent, cmdReady_iff, and_assoc]

/-- An edge writes S0 and S1 by a reset or by an accepted command, or keeps them. -/
theorem clockEdge_gen_cases {p : PortsIn} {s t : State} (h : clockEdge p s = .next t) :
    (p.rst = true ∧ t.gen = construct defaultSeed) ∨ t.gen = s.gen ∨
    (commandEvent s p = true ∧ t.gen = effectGen (decode p.cmdWord) s.gen) := by
  rcases clockEdge_cases p s t h with
    ⟨hrst, rfl⟩ | ⟨-, -, -, rfl⟩ | ⟨-, -, f, -, rfl⟩ | ⟨-, -, -, d, e, -, ⟨-, rfl⟩ | ⟨-, rfl⟩⟩ |
    ⟨-, -, -, -, -, rfl⟩ | ⟨hrst, hdone, hidle, hempty, hvalid, rfl⟩
  case inl => exact .inl ⟨hrst, rfl⟩
  case inr.inr.inr.inr.inr =>
    have accepted := (commandEvent_iff s p).2 ⟨hdone, hvalid, hrst, hidle, hempty⟩
    exact .inr (.inr ⟨accepted, State.holdResponse_gen ..⟩)
  all_goals exact .inr (.inl (by simp))

/-- No edge takes the block back before its reset. -/
theorem clockEdge_resetDone {p : PortsIn} {s t : State} (h : clockEdge p s = .next t) (hs : s.resetDone = true) :
    t.resetDone = true := by
  rcases clockEdge_cases p s t h with
    ⟨-, rfl⟩ | ⟨-, -, -, rfl⟩ | ⟨-, -, f, -, rfl⟩ | ⟨-, -, -, d, e, -, ⟨-, rfl⟩ | ⟨-, rfl⟩⟩ |
    ⟨-, -, -, -, -, rfl⟩ | ⟨-, -, -, -, -, rfl⟩ <;> simp [hs]

/-! ### The handshake invariant -/

theorem handshakeInv_of_idle {s : State} (h : s.busy = none) : s.handshakeInv := by
  intro _ busy
  simp [h] at busy

theorem handshakeInv_of_empty {s : State} (h : s.rsp = .empty) : s.handshakeInv := fun _ _ => h

/-- A BUSY block with RSP EMPTY stays so, or becomes IDLE when its response enters RSP. -/
theorem advanceBusy_handshakeInv {s : State} (f : InFlight) (h : s.rsp = .empty) : (s.advanceBusy f).handshakeInv := by
  rcases f with ⟨data, err, _ | n⟩
  · exact handshakeInv_of_idle rfl
  · exact handshakeInv_of_empty h

/-- A response held back leaves RSP EMPTY; with L = 1 the block stays IDLE. -/
theorem holdResponse_handshakeInv {s : State} (n : Nat) (h : s.busy = none) : (s.holdResponse n).handshakeInv := by
  rcases n with _ | n
  · exact handshakeInv_of_idle (by simpa using h)
  · cases hrsp : s.rsp with
    | empty => exact handshakeInv_of_idle (by simpa [State.holdResponse, hrsp] using h)
    | full data err =>
      rw [State.holdResponse_succ s n data err hrsp]
      exact handshakeInv_of_empty rfl

theorem clockEdge_handshakeInv {p : PortsIn} {s t : State} (hs : s.handshakeInv) (h : clockEdge p s = .next t) :
    t.handshakeInv := by
  rcases clockEdge_cases p s t h with
    ⟨-, rfl⟩ | ⟨-, -, -, rfl⟩ | ⟨-, hdone, f, hbusy, rfl⟩ | ⟨-, -, -, d, e, -, ⟨-, rfl⟩ | ⟨-, rfl⟩⟩ |
    ⟨-, -, -, -, -, rfl⟩ | ⟨-, -, hidle, -, -, rfl⟩
  · exact handshakeInv_of_idle rfl
  · exact hs
  · exact advanceBusy_handshakeInv f (hs hdone (by simp [hbusy]))
  · exact handshakeInv_of_empty rfl
  · exact hs
  · exact hs
  · exact holdResponse_handshakeInv _ hidle

/-- Settles O44: a power loss ends the reset, every edge keeps the invariant. -/
theorem stepKeepsHandshakeInv : Obligations.StepKeepsHandshakeInv := by
  intro s t hs h
  rcases step_powerLoss_or_edge h with ⟨rest, -, rfl⟩ | ⟨p, edge, -⟩
  · intro done
    simp at done
  · exact clockEdge_handshakeInv (s := s.tick) hs edge

/-- Settles O45: the reset state is IDLE with RSP EMPTY. -/
theorem resetMeetsHandshakeInv : Obligations.ResetMeetsHandshakeInv :=
  ⟨handshakeInv_of_idle rfl, rfl, rfl, rfl⟩

/-! ### The non-zero invariant -/

theorem jumpAhead_eq_zero_iff (g : Gen) : jumpAhead g = Gen.zero ↔ g = Gen.zero := by
  rw [jumpAhead_eq_iterate, iterate_advance_eq_zero_iff]

/-- Only one seed can construct the zero state (41_construction.md R115): the jump has no kernel, and S0 before it is seed + γ. -/
theorem construct_ne_zero {seed : Word} (h : seed ≠ zeroStateSeed) : construct seed ≠ Gen.zero := by
  rw [construct_eq, Ne, jumpAhead_eq_zero_iff]
  intro pre
  have sum : seed + golden = 0 := by simpa [preJump, splitMix64Step, Gen.zero] using congrArg Gen.s0 pre
  have minus : zeroStateSeed = -golden := by decide
  exact h ((eq_neg_of_add_eq_zero_left sum).trans minus.symm)

/-- A command other than SEED of the one seed keeps the generator off the zero state. -/
theorem effectGen_ne_zero {i : Instr} {g : Gen} (hg : g ≠ Gen.zero) (hi : i ≠ .seed zeroStateSeed) :
    effectGen i g ≠ Gen.zero := by
  cases i with
  | next _ => exact mt (iterate_advance_eq_zero_iff 1 g).1 hg
  | jump _ => exact mt (jumpAhead_eq_zero_iff g).1 hg
  | seed v => exact construct_ne_zero fun hv => hi (congrArg Instr.seed hv)
  | seeddef _ => exact construct_ne_zero (by decide)
  | reserved0 _ => exact hg
  | qmin _ => exact hg
  | qmax _ => exact hg
  | reserved7 _ => exact hg

theorem clockEdge_gen_ne_zero {p : PortsIn} {s t : State} (h : clockEdge p s = .next t) (hs : s.gen ≠ Gen.zero)
    (hp : inputKeepsNonZero (.clock p)) : t.gen ≠ Gen.zero := by
  rcases clockEdge_gen_cases h with ⟨-, hgen⟩ | hgen | ⟨accepted, hgen⟩
  · rw [hgen]
    exact construct_ne_zero (by decide)
  · rwa [hgen]
  · obtain ⟨-, hvalid, -⟩ := (commandEvent_iff s p).1 accepted
    rw [hgen]
    exact effectGen_ne_zero hs (hp hvalid)

/-- Settles O46: no input to come is a power loss, and at an edge the first input offers no SEED of the one seed. -/
theorem stepKeepsNonZeroInv : Obligations.StepKeepsNonZeroInv := by
  rintro s t ⟨hdone, hgen, hinputs⟩ h
  have later : ∀ x ∈ t.inputs, inputKeepsNonZero x := by
    obtain ⟨-, inputs, -⟩ := step_frame s t h
    rw [inputs]
    exact fun x hx => hinputs x (List.mem_of_mem_tail hx)
  rcases step_powerLoss_or_edge h with ⟨rest, hloss, -⟩ | ⟨p, edge, hports⟩
  · exact (hinputs .powerLoss (by simp [hloss])).elim
  · have ports : inputKeepsNonZero (.clock p) := by
      rcases hports with ⟨-, rfl⟩ | ⟨rest, hcons⟩
      · exact nofun
      · exact hinputs _ (by simp [hcons])
    exact ⟨clockEdge_resetDone edge hdone, clockEdge_gen_ne_zero edge hgen ports, later⟩

theorem reset_gen : State.reset.gen = construct defaultSeed := rfl

/-- Settles O47: the default seed is not the one seed. -/
theorem resetMeetsNonZeroInv : Obligations.ResetMeetsNonZeroInv :=
  ⟨rfl, reset_gen ▸ construct_ne_zero (by decide), nofun⟩

/-! ### The writers of S0 and S1 -/

/-- Settles O41: the edge's cases for S0 and S1, and the four commands that leave them. -/
theorem genChangesOnlyByItsWriters : Obligations.GenChangesOnlyByItsWriters := by
  intro s t h changed
  rcases step_powerLoss_or_edge h with ⟨rest, hloss, -⟩ | ⟨p, edge, hports⟩
  · exact .inl ⟨rest, hloss⟩
  have writer : p.rst = true ∨ (commandEvent s p = true ∧ t.gen = effectGen (decode p.cmdWord) s.gen) := by
    rcases clockEdge_gen_cases edge with ⟨hrst, -⟩ | hgen | accepted
    · exact .inl hrst
    · exact absurd hgen changed
    · exact .inr accepted
  right
  rcases hports with ⟨-, rfl⟩ | ⟨rest, hcons⟩
  · simp [commandEvent, PortsIn.idle] at writer
  · refine ⟨p, rest, hcons, writer.imp_right fun ⟨accepted, hgen⟩ => ?_⟩
    obtain ⟨-, -, -, hidle, hempty⟩ := (commandEvent_iff s p).1 accepted
    refine ⟨accepted, hidle, hempty, ?_⟩
    rw [hgen] at changed
    generalize decode p.cmdWord = i at changed ⊢
    cases i with
    | next _ | jump _ | seed _ | seeddef _ => trivial
    | qmin _ | qmax _ | reserved0 _ | reserved7 _ => exact changed rfl

end Sys2Proof.Proofs.Steps
end

section
/-! PROOFS. The commands and the hardwired values: the frame of every command (10_state.md R24, R33), its readers and writers of S0 and S1
(R24), the constants (R26 to R28) and the reset state (R34). -/

namespace Sys2Proof.Proofs.Commands
open Sys2Proof.Machine Sys2Proof.Proofs.Powers Sys2Proof.Proofs.Period Sys2Proof.Proofs.Steps

/-! ### The frame of every command -/

/-- Settles O15: the frame of `effectState`, then S0 and S1 and the mark, command by command. -/
theorem commandsChangeOnlyGenAndRsp : Obligations.CommandsChangeOnlyGenAndRsp := by
  intro i s t h
  obtain ⟨-, rfl⟩ := (exec_eq_next_iff i s t).1 h
  refine ⟨rfl, rfl, rfl, rfl, rfl, ?_, ?_⟩
  · cases i with
    | next _ | jump _ | seed _ | seeddef _ => trivial
    | qmin _ | qmax _ | reserved0 _ | reserved7 _ => rfl
  · cases i with
    | next _ | jump _ | seed _ | seeddef _ | qmin _ | qmax _ => exact Bool.or_false _
    | reserved0 _ | reserved7 _ => exact Bool.or_true _

/-! ### Readers and writers of S0 and S1 -/

/-- A reset block with these values in S0 and S1. -/
def resetWithGen (g : Gen) : State := State.reset.setGen g

theorem exec_resetWithGen (i : Instr) (g : Gen) : exec i (resetWithGen g) = .next (effectState i (resetWithGen g)) :=
  exec_of_resetDone i _ rfl

theorem exists_gen_ne (g : Gen) : ∃ h : Gen, g ≠ h := by
  by_cases hg : g = Gen.zero
  · exact ⟨⟨1, 0⟩, by rw [hg]; decide⟩
  · exact ⟨Gen.zero, hg⟩

/-- A command that leaves one fixed state writes S0 and S1. -/
theorem constant_writes_gen {i : Instr} {x : Gen} (hi : ∀ g, effectGen i g = x) :
    ∃ s t : State, exec i s = .next t ∧ t.gen ≠ s.gen := by
  obtain ⟨g, hg⟩ := exists_gen_ne x
  refine ⟨resetWithGen g, _, exec_resetWithGen i g, ?_⟩
  rwa [effectState_gen, hi]

/-- A command that leaves T^n, for `n` no multiple of the period, moves the state (1, 0) and keeps the zero state. -/
theorem iterate_reads_and_writes_gen {i : Instr} {n : Nat} (hi : ∀ g, effectGen i g = advance^[n] g)
    (hn : ¬ 2 ^ 128 - 1 ∣ n) :
    (∃ (s t u : State) (g : Gen), exec i s = .next t ∧ exec i { s with gen := g } = .next u ∧ t.gen ≠ u.gen) ∧
    (∃ s t : State, exec i s = .next t ∧ t.gen ≠ s.gen) := by
  have one_ne_zero : (⟨1, 0⟩ : Gen) ≠ Gen.zero := by decide
  refine ⟨⟨resetWithGen ⟨1, 0⟩, _, _, Gen.zero, exec_resetWithGen i _, exec_resetWithGen i Gen.zero, ?_⟩,
    ⟨resetWithGen ⟨1, 0⟩, _, exec_resetWithGen i _, ?_⟩⟩
  · rw [effectState_gen, effectState_gen, hi, hi]
    exact (advance_injective.iterate n).ne one_ne_zero
  · rw [effectState_gen, hi]
    exact mt (iterate_advance_eq_self_iff one_ne_zero n).1 hn

/-- A command whose effect is the same for two values of S0 and S1 has the same outcome for both. -/
theorem exec_setGen_of_effectState {i : Instr} {s : State} {g : Gen} (h : effectState i { s with gen := g } = effectState i s) :
    exec i { s with gen := g } = exec i s := by
  rw [exec_eq_command, exec_eq_command, command, command, h]

/-- Settles O16: the constructions and reset leave a constant, NEXT and JUMP leave T and T^(2^64), the other commands leave S0 and S1. -/
theorem readersAndWritersOfState : Obligations.ReadersAndWritersOfState := by
  refine ⟨fun i s g => ?_, fun p s g hrst => ?_, fun i => ?_, ?_⟩
  · cases i with
    | seed _ | seeddef _ => exact exec_setGen_of_effectState rfl
    | qmin _ | qmax _ | reserved0 _ | reserved7 _ =>
      intro t h
      obtain ⟨hdone, rfl⟩ := (exec_eq_next_iff _ s t).1 h
      exact ⟨rfl, exec_of_resetDone _ _ hdone⟩
    | next _ | jump _ => trivial
  · rw [clockEdge_reset p _ hrst, clockEdge_reset p _ hrst]
    rfl
  · cases i with
    | next _ => exact iterate_reads_and_writes_gen (n := 1) (fun _ => rfl) (by norm_num)
    | jump _ => exact iterate_reads_and_writes_gen jumpAhead_eq_iterate (by norm_num)
    | seed v => exact constant_writes_gen (x := construct v) fun _ => rfl
    | seeddef _ => exact constant_writes_gen (x := construct defaultSeed) fun _ => rfl
    | qmin _ | qmax _ | reserved0 _ | reserved7 _ => trivial
  · obtain ⟨g, hg⟩ := exists_gen_ne (construct defaultSeed)
    exact ⟨{ PortsIn.idle with rst := true }, resetWithGen g, _, rfl, clockEdge_reset _ _ rfl, hg⟩

/-! ### Constants and the reset state -/

/-- Settles O1: the reset state is computed by the rule, and the kernel evaluates it. -/
theorem resetStateIsDefaultConstruction : Obligations.ResetStateIsDefaultConstruction :=
  ⟨reset_gen, by decide +kernel, rfl, rfl⟩

/-- Settles O2: the literals, and the bits of the two jump constants counted. -/
theorem hardwiredConstants : Obligations.HardwiredConstants :=
  ⟨rfl, by decide, rfl, rfl, by decide, rfl, by decide, rfl, rfl⟩

end Sys2Proof.Proofs.Commands
end

section
/-! PROOFS. Blocks with equal hardware state (10_state.md R22): every operation of a clock edge keeps the agreement, so steps and runs of
two such blocks keep it or stop with the same fault. -/

namespace Sys2Proof.Proofs.EqualHardware
open Sys2Proof.Machine

/-- Two outcomes that agree on the hardware: next states that do, or the same fault. -/
def sameOutcome (o o' : Host.Outcome State Fault Refusal) : Prop :=
  match o, o' with
  | .next t, .next u => t.sameHardware u
  | .fault r, .fault r' => r = r'
  | _, _ => False

/-! ### The operations of an edge -/

section
variable {a b : State} (h : a.sameHardware b)
include h

theorem tick_sameHardware : a.tick.sameHardware b.tick := by
  obtain ⟨hgen, hrsp, hbusy, hdone, hlat, hinputs⟩ := h
  exact ⟨hgen, hrsp, hbusy, hdone, hlat, congrArg List.tail hinputs⟩

theorem applyReset_sameHardware : a.applyReset.sameHardware b.applyReset := by
  obtain ⟨-, -, -, -, hlat, hinputs⟩ := h
  exact ⟨rfl, rfl, rfl, rfl, hlat, hinputs⟩

theorem acceptResponse_sameHardware : a.acceptResponse.sameHardware b.acceptResponse := by
  obtain ⟨hgen, -, hbusy, hdone, hlat, hinputs⟩ := h
  exact ⟨hgen, rfl, hbusy, hdone, hlat, hinputs⟩

theorem advanceBusy_sameHardware (f : InFlight) : (a.advanceBusy f).sameHardware (b.advanceBusy f) := by
  obtain ⟨hgen, hrsp, -, hdone, hlat, hinputs⟩ := h
  rcases f with ⟨data, err, _ | n⟩
  · exact ⟨hgen, rfl, rfl, hdone, hlat, hinputs⟩
  · exact ⟨hgen, hrsp, rfl, hdone, hlat, hinputs⟩

theorem effectState_sameHardware (i : Instr) : (effectState i a).sameHardware (effectState i b) := by
  obtain ⟨hgen, -, hbusy, hdone, hlat, hinputs⟩ := h
  exact ⟨congrArg (effectGen i) hgen, by simp [hgen], hbusy, hdone, hlat, hinputs⟩

theorem holdResponse_sameHardware (n : Nat) : (a.holdResponse n).sameHardware (b.holdResponse n) := by
  rcases n with _ | n
  · simpa using h
  obtain ⟨hgen, hrsp, hbusy, hdone, hlat, hinputs⟩ := h
  cases ha : a.rsp with
  | empty =>
    have hb : b.rsp = .empty := hrsp ▸ ha
    simp only [State.holdResponse, ha, hb]
    exact ⟨hgen, hrsp, hbusy, hdone, hlat, hinputs⟩
  | full data err =>
    rw [State.holdResponse_succ a n data err ha, State.holdResponse_succ b n data err (hrsp ▸ ha)]
    exact ⟨hgen, rfl, rfl, hdone, hlat, hinputs⟩

/-! ### Edges, steps and runs -/

theorem clockEdge_sameOutcome (p : PortsIn) : sameOutcome (clockEdge p a) (clockEdge p b) := by
  obtain ⟨-, hrsp, hbusy, hdone, hlat, -⟩ := id h
  cases hrst : p.rst with
  | true =>
    rw [clockEdge_reset p a hrst, clockEdge_reset p b hrst]
    exact applyReset_sameHardware h
  | false =>
  cases hd : a.resetDone with
  | false =>
    rw [clockEdge_unreset p a hrst hd, clockEdge_unreset p b hrst (hdone ▸ hd)]
    split
    · rfl
    · exact h
  | true =>
  cases hf : a.busy with
  | some f =>
    rw [clockEdge_busy p a f hrst hd hf, clockEdge_busy p b f hrst (hdone ▸ hd) (hbusy ▸ hf)]
    exact advanceBusy_sameHardware h f
  | none =>
  cases hr : a.rsp with
  | full data err =>
    rw [clockEdge_full p a data err hrst hd hf hr, clockEdge_full p b data err hrst (hdone ▸ hd) (hbusy ▸ hf) (hrsp ▸ hr)]
    split
    · exact acceptResponse_sameHardware h
    · exact h
  | empty =>
    rw [clockEdge_ready p a hrst hd hf hr, clockEdge_ready p b hrst (hdone ▸ hd) (hbusy ▸ hf) (hrsp ▸ hr)]
    split
    · rw [acceptCommand_eq _ a hd, acceptCommand_eq _ b (hdone ▸ hd), hlat]
      exact holdResponse_sameHardware (effectState_sameHardware h _) _
    · exact h

theorem step_sameOutcome (hpower : ∀ x ∈ a.inputs, x ≠ .powerLoss) : sameOutcome (step a) (step b) := by
  obtain ⟨-, -, -, -, -, hinputs⟩ := id h
  cases ha : a.inputs with
  | nil =>
    rw [step_nil a ha, step_nil b (hinputs ▸ ha)]
    exact clockEdge_sameOutcome (tick_sameHardware h) _
  | cons x rest =>
    cases x with
    | clock p =>
      rw [step_clock a p rest ha, step_clock b p rest (hinputs ▸ ha)]
      exact clockEdge_sameOutcome (tick_sameHardware h) p
    | powerLoss => exact absurd rfl (hpower .powerLoss (by simp [ha]))

end

/-- A run stops at the fault of its first step. -/
theorem run_succ_of_fault (n : Nat) (s : State) (r : Fault) (h : step s = .fault r) :
    Host.Core.run Sys2Proof.core (n + 1) s = .fault r := by
  have first : Sys2Proof.core.step s = .fault r := h
  simp only [Host.Core.run, first]

theorem run_sameOutcome (n : Nat) {a b : State} (h : a.sameHardware b) (hpower : ∀ x ∈ a.inputs, x ≠ .powerLoss) :
    sameOutcome (Host.Core.run Sys2Proof.core n a) (Host.Core.run Sys2Proof.core n b) := by
  induction n generalizing a b with
  | zero => exact h
  | succ n ih =>
    have first := step_sameOutcome h hpower
    cases ha : step a <;> cases hb : step b <;> rw [ha, hb] at first
    case next.next t u =>
      obtain ⟨-, inputs, -⟩ := step_frame a t ha
      rw [run_succ_of_step n a t ha, run_succ_of_step n b u hb]
      exact ih first fun x hx => hpower x (List.mem_of_mem_tail (inputs ▸ hx))
    case fault.fault r r' =>
      rw [run_succ_of_fault n a r ha, run_succ_of_fault n b r' hb]
      exact first
    all_goals exact first.elim

/-- A FULL RSP is what the response port shows (70_reset_and_hazards.md R262). -/
theorem outputPorts_full {s : State} {data : Word} {err : Bool} (hdone : s.resetDone = true) (hrsp : s.rsp = .full data err) :
    outputPorts s false = some ⟨false, true, data, err⟩ := by
  simp [outputPorts, State.cmdReady, State.rspValid, rspIsFull, hdone, hrsp]

/-- Settles O48: runs by induction on the number of steps, and the ports of a FULL RSP. -/
theorem equalHardwareRunsEqual : Obligations.EqualHardwareRunsEqual := by
  refine ⟨fun n a b h hpower => run_sameOutcome n h hpower, fun a b data err h hdone hrsp => ?_⟩
  obtain ⟨-, sameRsp, -, sameDone, -, -⟩ := h
  rw [outputPorts_full hdone hrsp, outputPorts_full (sameDone ▸ hdone) (sameRsp ▸ hrsp)]

end Sys2Proof.Proofs.EqualHardware
end

section
/-! PROOFS. Commands given twice (20_memory.md R44): the second QMIN, QMAX, reserved opcode or construction leaves what the first one
left; the second NEXT or JUMP moves S0 and S1 again. -/

namespace Sys2Proof.Proofs.Idempotence
open Sys2Proof.Machine Sys2Proof.Proofs.Powers Sys2Proof.Proofs.Period Sys2Proof.Proofs.Commands

/-- A command that finds what it leaves in S0 and S1, and answers the same there, is idempotent: the mark is sticky, and the other fields
are its frame. -/
theorem effectState_effectState {i : Instr} {s : State} (gen : effectGen i (effectGen i s.gen) = effectGen i s.gen)
    (data : effectData i (effectGen i s.gen) = effectData i s.gen) :
    effectState i (effectState i s) = effectState i s := by
  have mark : (s.illegalMark || isReserved i || isReserved i) = (s.illegalMark || isReserved i) := by
    rw [Bool.or_assoc, Bool.or_self]
  simp only [effectState, gen, data, mark]

/-- A command that leaves T^n, for `n` no multiple of the period, moves the state (1, 0) twice: the first move leaves a non-zero state. -/
theorem iterate_changes_gen_again {i : Instr} {n : Nat} (hi : ∀ g, effectGen i g = advance^[n] g) (hn : ¬ 2 ^ 128 - 1 ∣ n) :
    ∃ s t u : State, exec i s = .next t ∧ exec i t = .next u ∧ u.gen ≠ t.gen := by
  have first_ne_zero : advance^[n] ⟨1, 0⟩ ≠ Gen.zero := mt (iterate_advance_eq_zero_iff n _).1 (by decide)
  refine ⟨resetWithGen ⟨1, 0⟩, _, _, exec_resetWithGen i _, exec_of_resetDone i _ rfl, ?_⟩
  have start : (resetWithGen ⟨1, 0⟩).gen = ⟨1, 0⟩ := rfl
  rw [effectState_gen, effectState_gen, start, hi, hi]
  exact mt (iterate_advance_eq_self_iff first_ne_zero n).1 hn

/-- Settles O17: a construction leaves a constant, QMIN, QMAX and the reserved opcodes leave S0 and S1, and all of them answer a constant;
NEXT and JUMP leave T and T^(2^64). -/
theorem idempotentCommands : Obligations.IdempotentCommands := by
  refine ⟨fun i s t h => ?_, iterate_changes_gen_again (n := 1) (fun _ => rfl) (by norm_num),
    iterate_changes_gen_again jumpAhead_eq_iterate (by norm_num)⟩
  obtain ⟨hdone, rfl⟩ := (exec_eq_next_iff i s t).1 h
  have again : exec i (effectState i s) = .next (effectState i (effectState i s)) := exec_of_resetDone i _ hdone
  cases i with
  | seed _ | seeddef _ | qmin _ | qmax _ | reserved0 _ | reserved7 _ => exact again.trans (congrArg _ (effectState_effectState rfl rfl))
  | next _ | jump _ => trivial

end Sys2Proof.Proofs.Idempotence
end

section
/-! PROOFS. The command word and the response word (30_encoding.md R61 to R66): their fields, decode and encode as inverses, what a command
of every form does, and the words the assembler makes (R67). -/

namespace Sys2Proof.Proofs.Encoding
open Sys2Proof.Machine

/-! ### The opcode map -/

theorem op_values (op : BitVec 3) : op = 0 ∨ op = 1 ∨ op = 2 ∨ op = 3 ∨ op = 4 ∨ op = 5 ∨ op = 6 ∨ op = 7 := by
  decide +revert

/-- The command of the map's row of `op` has that op value and operand. -/
theorem decodeFields_fields (op : BitVec 3) (imm : Word) : (decodeFields op imm).op = op ∧ (decodeFields op imm).imm = imm := by
  rcases op_values op with rfl | rfl | rfl | rfl | rfl | rfl | rfl | rfl <;> exact ⟨rfl, rfl⟩

/-- A command is the map's row of its op value. -/
theorem decodeFields_op_imm (i : Instr) : decodeFields i.op i.imm = i := by
  cases i <;> simp [decodeFields, Instr.op, Instr.imm]

/-- Decoding a packed word reads the map at its two fields. -/
theorem decode_packCommand (op : BitVec 3) (imm : Word) : decode (packCommand op imm) = decodeFields op imm := by
  rw [decode, cmdOpField_pack, cmdImmField_pack]

theorem decode_encode (i : Instr) : decode (encode i) = i := by
  rw [encode, decode_packCommand, decodeFields_op_imm]

theorem encode_decode (w : CmdWord) : encode (decode w) = w := by
  obtain ⟨op, imm⟩ := decodeFields_fields (cmdOpField w) (cmdImmField w)
  rw [encode, decode, op, imm, pack_fields]

/-- Settles O7: packing and taking the fields are inverse, and so are the two readings of the opcode map. -/
theorem decodeEncodeInverse : Obligations.DecodeEncodeInverse :=
  ⟨fun i _ => decode_encode i, encode_decode⟩

/-- A word whose bits 2:0 are `op` decodes by the map's row of `op`. -/
theorem decode_of_opField {w : CmdWord} {op : BitVec 3} (h : w.extractLsb' 0 3 = op) :
    decode w = decodeFields op (w.extractLsb' 3 64) := by
  rw [← h]
  rfl

/-- Settles O3: at each op value the map's row is the command. -/
theorem decodeFollowsOpcodeMap : Obligations.DecodeFollowsOpcodeMap := fun _ =>
  ⟨decode_of_opField, decode_of_opField, decode_of_opField, decode_of_opField,
    decode_of_opField, decode_of_opField, decode_of_opField, decode_of_opField⟩

/-- Settles O4: the decoder evaluated at the ten words of R69. -/
theorem exampleWordsDecode : Obligations.ExampleWordsDecode := by
  unfold Obligations.ExampleWordsDecode
  decide

/-! ### The words as numbers -/

theorem packCommand_toNat (op : BitVec 3) (imm : Word) : (packCommand op imm).toNat = imm.toNat * 8 + op.toNat := by
  rw [packCommand, BitVec.toNat_append, ← Nat.shiftLeft_add_eq_or_of_lt op.isLt, Nat.shiftLeft_eq]

/-- R61 for any packed word. -/
theorem packCommand_fields (op : BitVec 3) (imm : Word) :
    (packCommand op imm).toNat = imm.toNat * 8 + op.toNat ∧
      (packCommand op imm).extractLsb' 0 3 = op ∧ (packCommand op imm).extractLsb' 3 64 = imm :=
  ⟨packCommand_toNat op imm, cmdOpField_pack op imm, cmdImmField_pack op imm⟩

/-- Settles O5: both words are packed from their two fields. -/
theorem commandWordPacksFields : Obligations.CommandWordPacksFields :=
  ⟨fun i => packCommand_fields i.op i.imm, fun p => packCommand_fields p.cmdOp p.cmdSeed⟩

theorem responseWord_data (data : Word) (err : Bool) : (responseWord data err).extractLsb' 0 64 = data :=
  BitVec.extractLsb'_append_eq_right

theorem responseWord_err (data : Word) (err : Bool) : (responseWord data err).getLsbD 64 = err := by
  rw [responseWord, BitVec.getLsbD_append]
  simp

theorem responseWord_toNat (data : Word) (err : Bool) :
    (responseWord data err).toNat = err.toNat * 2 ^ 64 + data.toNat := by
  rw [responseWord, BitVec.toNat_append, ← Nat.shiftLeft_add_eq_or_of_lt data.isLt, Nat.shiftLeft_eq, BitVec.toNat_ofBool]

/-- The host can accept a response only where rst = 0 and RSP is FULL (70_reset_and_hazards.md R262, R263). -/
theorem responseEvent_iff (s : State) (p : PortsIn) :
    responseEvent s p = true ↔
      s.resetDone = true ∧ p.rst = false ∧ (∃ data err, s.rsp = .full data err) ∧ p.rspReady = true := by
  simp [responseEvent, rspValid_iff, and_assoc]

/-- Settles O6: the fields of the word, and the ports of a FULL RSP. -/
theorem responseWordPacksFields : Obligations.ResponseWordPacksFields := by
  refine ⟨fun data err => ⟨responseWord_data data err, responseWord_err data err, responseWord_toNat data err⟩, fun s p h => ?_⟩
  obtain ⟨done, unreset, ⟨data, err, full⟩, -⟩ := (responseEvent_iff s p).1 h
  rw [unreset]
  exact ⟨_, data, err, full, EqualHardware.outputPorts_full done full, rfl, rfl⟩

/-! ### What a command of every form does -/

/-- A command that is not reserved changes S0 and S1 and RSP, nothing else. -/
theorem effectState_of_not_reserved {i : Instr} (s : State) (h : isReserved i = false) :
    effectState i s = { s with gen := effectGen i s.gen, rsp := .full (effectData i s.gen) false } := by
  simp [effectState, h]

/-- Only SEED's row has an operand (R64). -/
theorem effectState_decodeFields_congr {op : BitVec 3} (hop : op ≠ 3) (a b : Word) (s : State) :
    effectState (decodeFields op a) s = effectState (decodeFields op b) s := by
  rcases op_values op with rfl | rfl | rfl | rfl | rfl | rfl | rfl | rfl
  case inr.inr.inr.inl => exact absurd rfl hop
  all_goals rfl

/-- Settles O8: the effects of the rows of SEED and SEEDDEF, and the other rows without their operand. -/
theorem seedOperandTakenWholeOthersIgnored : Obligations.SeedOperandTakenWholeOthersIgnored := by
  refine ⟨fun w s hop done => ?_, fun w s hop done => ?_, fun v w s same hop => ?_⟩
  · rw [exec_of_resetDone _ s done, decode_of_opField hop]
    exact congrArg _ (effectState_of_not_reserved s rfl)
  · rw [exec_of_resetDone _ s done, decode_of_opField hop]
    exact congrArg _ (effectState_of_not_reserved s rfl)
  · have effect : effectState (decode v) = effectState (decode w) := by
      funext s
      rw [decode_of_opField same, decode_of_opField (w := w) rfl]
      exact effectState_decodeFields_congr hop _ _ s
    rw [exec_eq_command, exec_eq_command, effect]

/-- Settles O14: the response of the effect, row by row. -/
theorem everyCommandRespondsAsTabled : Obligations.EveryCommandRespondsAsTabled := by
  intro i s done
  refine ⟨effectState i s, exec_of_resetDone i s done, ?_⟩
  cases i <;> rfl

/-! ### The assembler -/

theorem immInRange_iff (v : Int) : immInRange v = true ↔ 0 ≤ v ∧ v < 2 ^ 64 := by
  simp [immInRange]

theorem opInRange_iff (o : Int) : opInRange o = true ↔ 0 ≤ o ∧ o < 8 := by
  simp [opInRange]

theorem assemble_of_wellFormed {a : Asm} (h : a.wellFormed = true) : assemble a = some (expand a) := if_pos h

theorem assemble_eq_none {a : Asm} (h : ¬ a.wellFormed = true) : assemble a = none := if_neg h

/-- An accepted `<imm>` is the word of its value. -/
theorem immWord_toNat {v : Int} (h : immInRange v = true) : ((immWord v).toNat : Int) = v := by
  obtain ⟨nonneg, small⟩ := (immInRange_iff v).1 h
  rw [immWord, BitVec.toNat_ofNat]
  omega

/-- RAW's number is in range of a command word, so none of it is lost. -/
theorem rawWord_toNat {o v : Int} (ho : opInRange o = true) (hv : immInRange v = true) :
    ((rawWord o v).toNat : Int) = v * 8 + o := by
  obtain ⟨nonneg, small⟩ := (immInRange_iff v).1 hv
  obtain ⟨nonneg_op, small_op⟩ := (opInRange_iff o).1 ho
  rw [rawWord, BitVec.toNat_ofNat]
  omega

/-- Settles O51: the range checks, the numbers of SEED's and RAW's words, and the words of the lines without operands. -/
theorem assemblerEncodesOrRefuses : Obligations.AssemblerEncodesOrRefuses := by
  refine ⟨fun v h0 h64 => ?_, fun v out => ?_, fun o v ho h8 h0 h64 => ?_, fun o v out => ?_, ?_⟩
  · have imm : immInRange v = true := (immInRange_iff v).2 ⟨h0, h64⟩
    refine ⟨_, assemble_of_wellFormed imm, ?_⟩
    rw [encode, packCommand_toNat]
    push_cast
    exact congrArg (· * 8 + 3) (immWord_toNat imm)
  · refine assemble_eq_none (mt (immInRange_iff v).1 ?_)
    omega
  · have op : opInRange o = true := (opInRange_iff o).2 ⟨ho, h8⟩
    have imm : immInRange v = true := (immInRange_iff v).2 ⟨h0, h64⟩
    exact ⟨_, assemble_of_wellFormed (Bool.and_eq_true_iff.2 ⟨op, imm⟩), rawWord_toNat op imm⟩
  · refine assemble_eq_none fun wf => ?_
    obtain ⟨op, imm⟩ := Bool.and_eq_true_iff.1 wf
    have hop := (opInRange_iff o).1 op
    have himm := (immInRange_iff v).1 imm
    omega
  · decide

end Sys2Proof.Proofs.Encoding
end

section
/-! PROOFS. A host that carries out assembler lines, accepting each response before the next command (30_encoding.md R68,
70_reset_and_hazards.md R255): its edges take a ready block through the commands one after the other, for every latency. -/

namespace Sys2Proof.Proofs.Streams
open Sys2Proof.Machine Sys2Proof.Proofs.Encoding

/-! ### Runs -/

/-- A run of any machine goes on where a shorter one ended. -/
theorem run_add {M : Host.Core} {m : Nat} {s t : M.State} (h : M.run m s = .next t) (n : Nat) : M.run (m + n) s = M.run n t := by
  induction m generalizing s with
  | zero =>
    cases h
    rw [Nat.zero_add]
  | succ m ih =>
    rw [Nat.add_right_comm]
    cases first : M.step s with
    | next u =>
      rw [run_succ_of_next M _ s u first] at h ⊢
      exact ih h
    | fault r => simp [Host.Core.run, first] at h
    | refused r => simp [Host.Core.run, first] at h

/-! ### The edges of one command -/

/-- The same block `n` edges later, with these inputs to come. -/
def elapsed (n : Nat) (rest : List Input) (s : State) : State := { s with inputs := rest, draws := s.draws + n }

theorem elapsed_elapsed (m n : Nat) (l rest : List Input) (s : State) : elapsed n rest (elapsed m l s) = elapsed (m + n) rest s := by
  simp [elapsed, Nat.add_assoc]

theorem effectState_elapsed (i : Instr) (n : Nat) (rest : List Input) (s : State) :
    effectState i (elapsed n rest s) = elapsed n rest (effectState i s) := rfl

theorem tick_eq_elapsed {s : State} {x : Input} {rest : List Input} (h : s.inputs = x :: rest) : s.tick = elapsed 1 rest s :=
  State.tick_of_cons s x rest h

theorem step_idle_of_busy {s : State} {f : InFlight} {rest : List Input} (done : s.resetDone = true) (busy : s.busy = some f)
    (inputs : s.inputs = .clock PortsIn.idle :: rest) : step s = .next ((elapsed 1 rest s).advanceBusy f) := by
  rw [step_clock s _ rest inputs, clockEdge_busy _ s.tick f rfl done busy, tick_eq_elapsed inputs]

/-- Over idle ports a BUSY block counts down, brings its response into RSP at the edge that is due, and keeps everything else
(10_state.md R31, 70_reset_and_hazards.md R266). -/
theorem run_idle_of_busy {n : Nat} {s : State} {data : Word} {err : Bool} {rest : List Input} (done : s.resetDone = true)
    (busy : s.busy = some ⟨data, err, n⟩) (inputs : s.inputs = List.replicate (n + 1) (.clock PortsIn.idle) ++ rest) :
    Host.Core.run Sys2Proof.core (n + 1) s = .next { elapsed (n + 1) rest s with rsp := .full data err, busy := none } := by
  induction n generalizing s with
  | zero => exact run_succ_of_step 0 s _ (step_idle_of_busy done busy inputs)
  | succ n ih =>
    have later := ih (s := { elapsed 1 (List.replicate (n + 1) (.clock PortsIn.idle) ++ rest) s with
      busy := some ⟨data, err, n⟩ }) done rfl rfl
    rw [run_succ_of_step (n + 1) s _ (step_idle_of_busy done busy inputs), State.advanceBusy_succ]
    refine later.trans ?_
    simp [elapsed, Nat.add_comm, Nat.add_left_comm]

/-- A fresh response held back for `n` edges stands in RSP after `n` edges over idle ports, be `n` 0 or not (R266). -/
theorem run_idle_of_holdResponse {n : Nat} {s : State} {data : Word} {err : Bool} {rest : List Input}
    (done : s.resetDone = true) (idle : s.busy = none) (full : s.rsp = .full data err)
    (inputs : s.inputs = List.replicate n (.clock PortsIn.idle) ++ rest) :
    Host.Core.run Sys2Proof.core n (s.holdResponse n) = .next (elapsed n rest s) := by
  cases n with
  | zero =>
    have all : s.inputs = rest := inputs
    rw [State.holdResponse_zero, ← all]
    rfl
  | succ n =>
    have due := run_idle_of_busy (s := { s with rsp := .empty, busy := some ⟨data, err, n⟩ }) done rfl inputs
    rw [State.holdResponse_succ s n data err full, due]
    simp [elapsed, full, idle]

/-- The edge at which the host accepts the response (70_reset_and_hazards.md R263). -/
theorem step_acceptResponse {s : State} {p : PortsIn} {data : Word} {err : Bool} {rest : List Input}
    (done : s.resetDone = true) (idle : s.busy = none) (full : s.rsp = .full data err) (inputs : s.inputs = .clock p :: rest)
    (unreset : p.rst = false) (ready : p.rspReady = true) : step s = .next (elapsed 1 rest s).acceptResponse := by
  rw [step_clock s p rest inputs, clockEdge_full p s.tick data err unreset done idle full, if_pos ready, tick_eq_elapsed inputs]

theorem offerWord_cmdWord (w : CmdWord) : (offerWord w).cmdWord = w := pack_fields w

/-- The edge at which a ready block accepts a word (70_reset_and_hazards.md R260). -/
theorem step_offerWord {s : State} {w : CmdWord} {rest : List Input} (ready : s.ready)
    (inputs : s.inputs = .clock (offerWord w) :: rest) :
    step s = .next ((effectState (decode w) (elapsed 1 rest s)).holdResponse (latencyExtra s.lat (decode w))) := by
  obtain ⟨done, idle, empty⟩ := ready
  rw [step_clock s _ _ inputs, clockEdge_ready _ s.tick rfl done idle empty, offerWord_cmdWord, ← tick_eq_elapsed inputs]
  exact acceptCommand_eq _ s.tick done

/-- A ready block offered a word, left alone for its latency and then asked for the response: the word's effect, and the block is ready
again. -/
theorem run_word {s : State} {w : CmdWord} {p : PortsIn} {after rest : List Input} (ready : s.ready)
    (inputs : s.inputs = .clock (offerWord w) :: after)
    (wait : after = List.replicate (latencyExtra s.lat (decode w)) (.clock PortsIn.idle) ++ .clock p :: rest)
    (unreset : p.rst = false) (accepts : p.rspReady = true) :
    Host.Core.run Sys2Proof.core (latencyExtra s.lat (decode w) + 1 + 1) s =
      .next (elapsed (latencyExtra s.lat (decode w) + 1 + 1) rest (effectState (decode w) s)).acceptResponse := by
  obtain ⟨done, idle, -⟩ := id ready
  have respond := run_idle_of_holdResponse (s := effectState (decode w) (elapsed 1 after s)) done idle rfl wait
  have accept := step_acceptResponse
    (s := elapsed (latencyExtra s.lat (decode w)) (.clock p :: rest) (effectState (decode w) (elapsed 1 after s)))
    done idle rfl rfl unreset accepts
  rw [effectState_elapsed, elapsed_elapsed, elapsed_elapsed, Nat.add_comm 1] at accept
  rw [run_succ_of_step _ s _ (step_offerWord ready inputs), run_add respond, effectState_elapsed, elapsed_elapsed, Nat.add_comm 1]
  exact run_succ_of_step 0 _ _ accept

/-! ### The edges of a list of actions -/

/-- From every ready block the host's edges for these actions, at the block's own latencies, end with the block ready again, its S0 and S1
changed by `f` and no IllegalCommand raised. -/
def CarriesOut (actions : List HostAction) (f : Gen → Gen) : Prop :=
  ∀ (s : State) (rest : List Input), s.ready → s.inputs = driveAll s.lat actions ++ rest →
    ∃ t : State, Host.Core.run Sys2Proof.core (driveAll s.lat actions).length s = .next t ∧
      t.ready ∧ t.gen = f s.gen ∧ t.inputs = rest ∧ t.lat = s.lat ∧ t.illegalMark = s.illegalMark

theorem carriesOut_nil : CarriesOut [] id :=
  fun s _ ready inputs => ⟨s, rfl, ready, rfl, inputs, rfl, rfl⟩

/-- The accepting edge, the idle edges of the latency, and the edge that accepts the response. -/
theorem carriesOut_word {w : CmdWord} (h : isReserved (decode w) = false) :
    CarriesOut [.word w] (effectGen (decode w)) := by
  intro s rest ready inputs
  obtain ⟨done, idle, -⟩ := id ready
  have edges : s.inputs = .clock (offerWord w) :: (List.replicate (latencyExtra s.lat (decode w)) (.clock PortsIn.idle)
      ++ .clock { PortsIn.idle with rspReady := true } :: rest) := by
    simpa [driveAll, HostAction.drive] using inputs
  have count : (driveAll s.lat [.word w]).length = latencyExtra s.lat (decode w) + 1 + 1 := by
    simp [driveAll, HostAction.drive]
  have mark : (s.illegalMark || isReserved (decode w)) = s.illegalMark := by rw [h, Bool.or_false]
  rw [count]
  exact ⟨_, run_word ready edges rfl rfl rfl, ⟨done, idle, rfl⟩, rfl, rfl, rfl, mark⟩

theorem carriesOut_cons {a : HostAction} {actions : List HostAction} {f g : Gen → Gen} (first : CarriesOut [a] f)
    (later : CarriesOut actions g) : CarriesOut (a :: actions) (g ∘ f) := by
  intro s rest ready inputs
  have drive : driveAll s.lat [a] = a.drive s.lat := List.append_nil _
  rw [driveAll, List.append_assoc] at inputs
  obtain ⟨t, run, ready, gen, inputs, lat, mark⟩ := first s _ ready (drive ▸ inputs)
  obtain ⟨u, run', ready, gen', inputs, lat', mark'⟩ := later t rest ready (lat ▸ inputs)
  rw [drive] at run
  rw [lat] at run'
  refine ⟨u, ?_, ready, ?_, inputs, lat'.trans lat, mark'.trans mark⟩
  · rw [driveAll, List.length_append, run_add run, run']
  · rw [gen', gen, Function.comp_apply]

theorem carriesOut_replicate {a : HostAction} {f : Gen → Gen} (h : CarriesOut [a] f) (n : Nat) :
    CarriesOut (List.replicate n a) f^[n] := by
  induction n with
  | zero => exact carriesOut_nil
  | succ n ih => exact carriesOut_cons h ih

/-- A line's command, known by its encoding. -/
theorem carriesOut_encode {i : Instr} (h : isReserved i = false) : CarriesOut [.word (encode i)] (effectGen i) := by
  have command := carriesOut_word (w := encode i)
  rw [decode_encode] at command
  exact command h

theorem immWord_eq_ofInt {v : Int} (h : immInRange v = true) : immWord v = BitVec.ofInt 64 v := by
  obtain ⟨nonneg, -⟩ := (immInRange_iff v).1 h
  rw [immWord, ← BitVec.ofInt_natCast, Int.toNat_of_nonneg nonneg]

/-- Settles O49: SEED, then one JUMP after the other; and one NEXT after the other. -/
theorem streamAndSkipReachTheirStates : Obligations.StreamAndSkipReachTheirStates := by
  constructor
  · intro k imm s rest ready range inputs
    have stream : CarriesOut (expand (.stream imm k)) (jumpAhead^[k] ∘ effectGen (.seed (immWord imm))) :=
      carriesOut_cons (carriesOut_encode rfl) (carriesOut_replicate (carriesOut_encode rfl) k)
    obtain ⟨t, run, ready, gen, inputs, -, mark⟩ := stream s rest ready inputs
    rw [immWord_eq_ofInt range] at gen
    exact ⟨t, run, ready, gen, inputs, mark⟩
  · intro n s rest ready inputs
    have skip : CarriesOut (expand (.skip n)) advance^[n] := carriesOut_replicate (carriesOut_encode (i := .next 0) rfl) n
    obtain ⟨t, run, ready, gen, inputs, -, mark⟩ := skip s rest ready inputs
    exact ⟨t, run, ready, gen, inputs, mark⟩

end Sys2Proof.Proofs.Streams
end

section
/-! PROOFS. The SplitMix64 step (40_splitmix64.md R100, R104): every stage of the mixing function, an xorshift or the product with an odd
constant, is injective, so the function is a bijection of words and gives zero for zero alone. -/

namespace Sys2Proof.Proofs.SplitMix
open Sys2Proof.Machine

/-- Settles O20: the formula is the definition; the corner of R104 and the example are evaluated. -/
theorem splitMixStepFormula : Obligations.SplitMixStepFormula :=
  ⟨fun _ => rfl, by decide, by decide⟩

/-! ### The stages of the mixing function -/

/-- The stage x XOR (x >> k) of R100. -/
def xorShift (k : Nat) (x : Word) : Word := x ^^^ (x >>> k)

theorem splitMix64Mix_eq (w : Word) :
    splitMix64Mix w = xorShift 31 (xorShift 27 (xorShift 30 w * splitMixMul1) * splitMixMul2) := rfl

/-- A shift to the right is a division by 2^k, which leaves only 0 as it is. -/
theorem eq_zero_of_ushiftRight_eq_self {d : Word} {k : Nat} (hk : k ≠ 0) (h : d >>> k = d) : d = 0 := by
  have same : d.toNat / 2 ^ k = d.toNat := by rw [← Nat.shiftRight_eq_div_pow, ← BitVec.toNat_ushiftRight, h]
  rcases Nat.div_eq_self.1 same with zero | one
  · exact BitVec.eq_of_toNat_eq zero
  · exact absurd one (Nat.one_lt_two_pow hk).ne'

theorem xorShift_xor (k : Nat) (x y : Word) : xorShift k (x ^^^ y) = xorShift k x ^^^ xorShift k y := by
  simp only [xorShift, BitVec.ushiftRight_xor_distrib]
  ac_rfl

/-- The xorshift is linear, so two words with equal images differ by a word that its own shift leaves as it is. -/
theorem xorShift_injective {k : Nat} (hk : k ≠ 0) : Function.Injective (xorShift k) := by
  intro x y h
  have image : xorShift k (x ^^^ y) = 0 := by rw [xorShift_xor, h]; exact BitVec.xor_self
  have shift : (x ^^^ y) >>> k = x ^^^ y := (BitVec.xor_eq_zero_iff.1 image).symm
  exact BitVec.xor_eq_zero_iff.1 (eq_zero_of_ushiftRight_eq_self hk shift)

/-- The multipliers of R101 are odd: each has an inverse modulo 2^64. -/
theorem isUnit_splitMixMul1 : IsUnit splitMixMul1 :=
  IsUnit.of_mul_eq_one 0x96DE1B173F119089 (by decide)

theorem isUnit_splitMixMul2 : IsUnit splitMixMul2 :=
  IsUnit.of_mul_eq_one 0x319642B2D24D8EC3 (by decide)

/-! ### The mixing function and the step -/

theorem splitMix64Mix_injective : Function.Injective splitMix64Mix := by
  intro x y h
  rw [splitMix64Mix_eq, splitMix64Mix_eq] at h
  have second := isUnit_splitMixMul2.mul_left_injective (xorShift_injective (by decide) h)
  have first := isUnit_splitMixMul1.mul_left_injective (xorShift_injective (by decide) second)
  exact xorShift_injective (by decide) first

theorem splitMix64Mix_bijective : Function.Bijective splitMix64Mix :=
  Finite.injective_iff_bijective.1 splitMix64Mix_injective

theorem splitMix64Mix_eq_zero_iff (w : Word) : splitMix64Mix w = 0 ↔ w = 0 :=
  splitMix64Mix_injective.eq_iff' (by decide)

theorem splitMix64Step_fst_eq_zero_iff (w : Word) : (splitMix64Step w).1 = 0 ↔ w = -golden :=
  eq_neg_iff_add_eq_zero.symm

theorem splitMix64Step_snd_eq_zero_iff (w : Word) : (splitMix64Step w).2 = 0 ↔ w = -golden :=
  (splitMix64Mix_eq_zero_iff _).trans (splitMix64Step_fst_eq_zero_iff w)

/-- Settles O21: the bijection, and the two zeros at -γ, the word of R104. -/
theorem splitMixZeroOnlyAtMinusGamma : Obligations.SplitMixZeroOnlyAtMinusGamma := by
  have minusGamma : -golden = 0x61C8864680B583EB := by decide
  rw [Obligations.SplitMixZeroOnlyAtMinusGamma, ← minusGamma]
  exact ⟨splitMix64Mix_bijective, splitMix64Step_fst_eq_zero_iff, splitMix64Step_snd_eq_zero_iff⟩

end Sys2Proof.Proofs.SplitMix
end

section
/-! PROOFS. Construction (41_construction.md): SEED and SEEDDEF by the rule's own two words before the jump (R110 to R112), the first value
after a construction (R113), and the one seed of the zero state (R115). -/

namespace Sys2Proof.Proofs.Construction
open Sys2Proof.Machine Sys2Proof.Proofs.Period Sys2Proof.Proofs.Steps Sys2Proof.Proofs.Encoding

/-! ### The one seed of the zero state -/

/-- At the one seed both words before the jump are 0, and the jump keeps the zero state. -/
theorem construct_zeroStateSeed : construct zeroStateSeed = Gen.zero := by
  have pre : preJump zeroStateSeed = Gen.zero := by decide
  rw [construct_eq, jumpAhead_eq_zero_iff, pre]

theorem construct_eq_zero_iff (seed : Word) : construct seed = Gen.zero ↔ seed = zeroStateSeed :=
  ⟨not_imp_not.1 construct_ne_zero, fun h => h ▸ construct_zeroStateSeed⟩

/-- Settles O27: the one seed, and Next keeps the zero state it constructs, whose output is 0. -/
theorem oneSeedConstructsZeroState : Obligations.OneSeedConstructsZeroState := by
  refine ⟨construct_eq_zero_iff, fun n => ?_⟩
  have stays : advance^[n] (construct zeroStateSeed) = Gen.zero := (iterate_advance_eq_zero_iff n _).2 construct_zeroStateSeed
  exact (congrArg nextOutput stays).trans (by decide)

/-! ### The construction commands -/

/-- Construct by the two words of R110: seed + γ and the SplitMix64 output. -/
theorem construct_eq_jumpAhead_words (seed : Word) :
    construct seed = jumpAhead ⟨seed + golden, (splitMix64Step seed).2⟩ :=
  construct_eq seed

/-- R112, before the first reset too. -/
theorem exec_seeddef_eq_exec_seed (imm : Word) (s : State) : exec (.seeddef imm) s = exec (.seed defaultSeed) s := by
  have effect : effectState (.seeddef imm) = effectState (.seed defaultSeed) := rfl
  rw [exec_eq_command, exec_eq_command, effect]

/-- Settles O12: the effects of O8 with Construct written by its two words; SEED's idempotence is a case of O17, and the kernel evaluates
the rules' values. -/
theorem seedCommandsConstruct : Obligations.SeedCommandsConstruct := by
  obtain ⟨seed, seeddef, -⟩ := seedOperandTakenWholeOthersIgnored
  obtain ⟨idempotent, -⟩ := Idempotence.idempotentCommands
  obtain ⟨resetGen, resetValue, -⟩ := Commands.resetStateIsDefaultConstruction
  refine ⟨fun w s hop done => ?_, fun w s hop done => ⟨?_, ?_⟩, fun v => idempotent (.seed v), by decide +kernel,
    construct_zeroStateSeed, resetGen.symm, resetGen.symm.trans resetValue⟩
  · rw [seed w s hop done, construct_eq_jumpAhead_words]
    rfl
  · rw [seeddef w s hop done, construct_eq_jumpAhead_words]
    rfl
  · rw [decode_of_opField hop]
    exact exec_seeddef_eq_exec_seed _ s

/-- Settles O18: SEED leaves Construct(v) in S0 and S1, accepting its response keeps it, and NEXT answers its sum. -/
theorem firstValueAfterConstruction : Obligations.FirstValueAfterConstruction := by
  intro v s done
  have constructed : (effectState (.seed v) s).acceptResponse.gen = construct v := rfl
  refine ⟨effectState (.seed v) s, effectState (.next 0) (effectState (.seed v) s).acceptResponse,
    exec_of_resetDone _ s done, rfl, exec_of_resetDone _ _ done, ?_⟩
  rw [effectState_rsp, constructed]
  rfl

end Sys2Proof.Proofs.Construction
end

section
/-! PROOFS. Generate next (42_generate_next.md): NEXT and the bound queries (R130, R131, R134, R135), the state map T as a linear and
invertible map with an output that is not linear (R137), how often each value is an output (R132), and the zero state (R136). -/

namespace Sys2Proof.Proofs.GenerateNext
open Sys2Proof.Machine Sys2Proof.Machine.Linear Sys2Proof.Proofs.Rotation Sys2Proof.Proofs.Period Sys2Proof.Proofs.Steps
  Sys2Proof.Proofs.Encoding

/-! ### Invertibility of the state map -/

/-- R137's recovery of `t`: the rotation by 36 is undone by the one by 64 − 36. -/
theorem rotateLeft_advance_s1 (g : Gen) : rotateLeft (advance g).s1 28 = g.s1 ^^^ g.s0 :=
  rotateLeft_rotateLeft_sub (k := 36) _ (by decide)

theorem xor_xor_xor_xor_cancel (x t u : Word) : x ^^^ t ^^^ u ^^^ t ^^^ u = x := by
  have pairs : x ^^^ t ^^^ u ^^^ t ^^^ u = x ^^^ ((t ^^^ t) ^^^ (u ^^^ u)) := by ac_rfl
  rw [pairs, BitVec.xor_self, BitVec.xor_self, BitVec.xor_self, BitVec.xor_zero]

/-- Settles O22: linearity and injectivity stand above, the recovery is R137's own, and (1, 0) and (0, 1) show a carry in the output. -/
theorem advanceLinearAndInvertible : Obligations.AdvanceLinearAndInvertible := by
  have := finite_gen
  refine ⟨advance_xor, Finite.injective_iff_bijective.1 advance_injective, fun g => ?_, ⟨1, 0⟩, ⟨0, 1⟩, by decide⟩
  rw [rotateLeft_advance_s1]
  refine ⟨rfl, (xor_xor_xor_xor_cancel _ _ _).symm, ?_⟩
  rw [BitVec.xor_assoc, BitVec.xor_self, BitVec.xor_zero]

/-! ### How often each value is an output -/

/-- The states with output `v` are as many as the values of S0: S1 is then `v` - S0. -/
def outputFiberEquiv (v : Word) : {g : Gen | nextOutput g = v} ≃ Word where
  toFun g := g.1.s0
  invFun a := ⟨⟨a, v - a⟩, add_sub_cancel a v⟩
  left_inv := by
    rintro ⟨g, rfl⟩
    exact Subtype.ext (gen_ext rfl (add_sub_cancel_left g.s0 g.s1))
  right_inv _ := rfl

theorem ncard_outputFiber (v : Word) : {g : Gen | nextOutput g = v}.ncard = 2 ^ 64 := by
  have word : Nat.card Word = 2 ^ 64 := (Nat.card_congr (BitVec.equivFin (m := 64)).toEquiv).trans (Nat.card_fin _)
  rw [← Nat.card_coe_set_eq, Nat.card_congr (outputFiberEquiv v), word]

theorem nextOutput_zero : nextOutput Gen.zero = 0 := by decide

/-- Settles O26: each value has 2^64 states, and the zero state is one of those of the value 0. -/
theorem outputValueMultiplicity : Obligations.OutputValueMultiplicity := by
  intro v
  have nonZero : {g : Gen | g ≠ Gen.zero ∧ nextOutput g = v} = {g | nextOutput g = v} \ {Gen.zero} :=
    Set.ext fun _ => and_comm
  refine (Nat.card_coe_set_eq {g : Gen | g ≠ Gen.zero ∧ nextOutput g = v}).trans ?_
  rw [nonZero]
  split
  · next isZero =>
    have present : Gen.zero ∈ {g : Gen | nextOutput g = v} := nextOutput_zero.trans isZero.symm
    rw [Set.ncard_sdiff_singleton_of_mem present, ncard_outputFiber]
  · next nonzero =>
    have absent : Gen.zero ∉ {g : Gen | nextOutput g = v} := fun out => nonzero (out.symm.trans nextOutput_zero)
    rw [Set.sdiff_singleton_eq_self absent, ncard_outputFiber]

/-! ### The zero state -/

/-- A command that is no construction keeps the zero state. -/
theorem effectGen_zero {i : Instr} (hi : ∀ v, i ≠ .seed v ∧ i ≠ .seeddef v) : effectGen i Gen.zero = Gen.zero := by
  cases i with
  | next _ => exact advance_zero
  | jump _ => exact (jumpAhead_eq_zero_iff _).2 rfl
  | seed v => exact absurd rfl (hi v).1
  | seeddef v => exact absurd rfl (hi v).2
  | reserved0 _ | qmin _ | qmax _ | reserved7 _ => rfl

/-- A command that keeps the zero state, answers it with 0 and is not reserved changes RSP alone. -/
theorem exec_of_gen_zero {i : Instr} {s : State} (done : s.resetDone = true) (zero : s.gen = Gen.zero)
    (gen : effectGen i Gen.zero = Gen.zero) (data : effectData i Gen.zero = 0) (defined : isReserved i = false) :
    exec i s = .next { s with rsp := .full 0 false } := by
  rw [exec_of_resetDone i s done, effectState_of_not_reserved s defined, zero, gen, data, ← zero]

/-- Settles O42: NEXT and JUMP at the zero state, then a step's cases for S0 and S1 with the writers that the inputs exclude. -/
theorem zeroStateStaysZero : Obligations.ZeroStateStaysZero := by
  refine ⟨fun v s done zero => ⟨?_, ?_⟩, fun s t zero h inputs => ?_⟩
  · exact exec_of_gen_zero done zero (effectGen_zero fun _ => ⟨nofun, nofun⟩) nextOutput_zero rfl
  · exact exec_of_gen_zero done zero (effectGen_zero fun _ => ⟨nofun, nofun⟩) rfl rfl
  rcases step_powerLoss_or_edge h with ⟨rest, loss, -⟩ | ⟨p, edge, ports⟩
  · obtain ⟨p, clock, -⟩ := inputs .powerLoss (by simp [loss])
    cases clock
  have quiet : p.rst = false ∧
      (commandEvent s p = true → ∀ v, decode p.cmdWord ≠ .seed v ∧ decode p.cmdWord ≠ .seeddef v) := by
    rcases ports with ⟨-, rfl⟩ | ⟨rest, cons⟩
    · exact ⟨rfl, fun accepted => by simp [commandEvent, PortsIn.idle] at accepted⟩
    · obtain ⟨q, clock, quiet⟩ := inputs (.clock p) (by simp [cons])
      cases clock
      exact quiet
  obtain ⟨noReset, noConstruction⟩ := quiet
  rcases clockEdge_gen_cases edge with ⟨reset, -⟩ | kept | ⟨accepted, written⟩
  · simp [noReset] at reset
  · exact kept.trans zero
  · rw [written, State.tick_gen, zero, effectGen_zero (noConstruction accepted)]

/-! ### NEXT and the bound queries -/

/-- T at equal words: `t` is 0, so both words lose it (R131). -/
theorem advance_of_eq (x : Word) : advance ⟨x, x⟩ = ⟨rotateLeft x 55, 0⟩ := by
  simp [advance, generateNext, rotateLeft]

/-- Settles O9: the effect of NEXT's row with R130's formula; (1, 0) moves twice. -/
theorem nextReturnsSumAndAdvances : Obligations.NextReturnsSumAndAdvances := by
  refine ⟨fun w s hop done => ?_, by decide, by decide, advance_of_eq, ⟨⟨1, 0⟩, by decide⟩, by decide⟩
  rw [exec_of_resetDone _ s done, decode_of_opField hop]
  exact congrArg _ (effectState_of_not_reserved s rfl)

/-- Settles O10: the effects of the two rows. -/
theorem queriesAnswerBounds : Obligations.QueriesAnswerBounds := by
  refine ⟨fun w s hop done => ?_, fun w s hop done => ?_⟩
  all_goals
    rw [exec_of_resetDone _ s done, decode_of_opField hop]
    exact congrArg _ (effectState_of_not_reserved s rfl)

end Sys2Proof.Proofs.GenerateNext
end

section
/-! PROOFS. Jump ahead (43_jump_ahead.md): the jump as T^(2^64), linear and invertible (R153, R154), JUMP's loop as one sum over the bits
of the two constants (R150, R152), and neighbouring streams as disjoint pieces of the cycle (R156). -/

namespace Sys2Proof.Proofs.JumpAhead
open Sys2Proof.Machine Sys2Proof.Machine.Linear Sys2Proof.Proofs.Powers Sys2Proof.Proofs.Period Sys2Proof.Proofs.Steps
  Sys2Proof.Proofs.Encoding

/-! ### The jump as a power of T -/

/-- The jump inherits injectivity from T, and there are finitely many states. -/
theorem jumpAhead_bijective : Function.Bijective jumpAhead := by
  have := finite_gen
  have power : jumpAhead = advance^[2 ^ 64] := funext jumpAhead_eq_iterate
  rw [← Finite.injective_iff_bijective, power]
  exact advance_injective.iterate _

/-- Settles O24: the jump constants are the coefficients of T^(2^64), and two jumps add the exponents. -/
theorem jumpAheadIsTwoPow64Nexts : Obligations.JumpAheadIsTwoPow64Nexts := by
  refine ⟨jumpAhead_eq_iterate, fun g => ?_, jumpAhead_bijective⟩
  have exponents : 2 ^ 64 + 2 ^ 64 = 2 ^ 65 := by norm_num
  rw [jumpAhead_eq_iterate, jumpAhead_eq_iterate, ← Function.iterate_add_apply, exponents]

/-- Settles O23: linearity is that of any power of T. -/
theorem jumpAheadLinear : Obligations.JumpAheadLinear := by
  refine ⟨fun a b => ?_, (jumpAhead_eq_zero_iff _).2 rfl⟩
  rw [jumpAhead_eq_iterate, jumpAhead_eq_iterate, jumpAhead_eq_iterate, iterate_advance_xor]

/-! ### Streams -/

theorem streamState_ne_zero {seed : Word} (h : construct seed ≠ Gen.zero) (k : Nat) : streamState seed k ≠ Gen.zero := by
  induction k with
  | zero => exact h
  | succ k ih => exact mt (jumpAhead_eq_zero_iff _).1 ih

/-- Fewer than 2^128 - 1 Nexts from a non-zero state do not meet a state twice. -/
theorem eq_of_iterate_advance_eq {g : Gen} (hg : g ≠ Gen.zero) {m n : Nat} (hm : m < 2 ^ 128 - 1) (hn : n < 2 ^ 128 - 1)
    (h : advance^[m] g = advance^[n] g) : m = n :=
  Function.iterate_injOn_Iio_minimalPeriod (f := advance) (x := g)
    (by rwa [minimalPeriod_advance hg]) (by rwa [minimalPeriod_advance hg]) h

/-- Settles O28: seen from the start of stream k, stream k + 1 is at position j + 2^64, and i is below 2^64. -/
theorem neighbourStreamsDisjoint : Obligations.NeighbourStreamsDisjoint := by
  intro seed k i j hseed hi hj meet
  rw [streamState, jumpAhead_eq_iterate, ← Function.iterate_add_apply] at meet
  have same : i = j + 2 ^ 64 :=
    eq_of_iterate_advance_eq (streamState_ne_zero hseed k) (by omega) (by omega) meet
  omega

/-! ### JUMP's loop -/

/-- The XOR of the states after `i` Nexts over the chosen `i` is a polynomial in T. -/
theorem foldl_xor_iterate_advance (b : Nat → Bool) (g : Gen) (n : Nat) :
    (List.range n).foldl (fun acc i => if b i then acc.xor (advance^[i] g) else acc) Gen.zero
      = act ((List.range n).map b) g := by
  induction n with
  | zero => rfl
  | succ n ih =>
    rw [List.range_succ, List.foldl_append, ih, List.map_append, List.map_singleton, act_append_singleton]
    cases hb : b n <;> simp [hb, pick, xor_zero]

/-- Bit `i` of {JUMP1, JUMP0} (R152). -/
def jumpBit (i : Nat) : Bool := if i < 64 then jump0.getLsbD i else jump1.getLsbD (i - 64)

theorem map_jumpBit_range : (List.range 128).map jumpBit = bitsOf 64 jump0.toNat ++ bitsOf 64 jump1.toNat := by
  decide +kernel

theorem jumpAhead_eq_foldl_jumpBit (g : Gen) :
    jumpAhead g =
      (List.range 128).foldl (fun acc i => if jumpBit i then acc.xor (advance^[i] g) else acc) Gen.zero := by
  rw [foldl_xor_iterate_advance, map_jumpBit_range, jumpAhead_eq_act]

/-- Settles O11: the effect of JUMP's row, with the jump written as its loop over the bits of the constants. -/
theorem jumpAccumulatesSelectedStates : Obligations.JumpAccumulatesSelectedStates := by
  intro w s hop done
  have effect : effectState (decodeFields 0b010#3 (w.extractLsb' 3 64)) s
      = { s with gen := jumpAhead s.gen, rsp := .full 0 false } := effectState_of_not_reserved s rfl
  rw [exec_of_resetDone _ s done, decode_of_opField hop, effect, jumpAhead_eq_foldl_jumpBit]
  rfl

end Sys2Proof.Proofs.JumpAhead
end

section
/-! PROOFS. The error response, the stops and the events of an edge (60_exceptions.md R200 to R215): the reserved opcodes and their mark, the
one fault, reset before the handshakes, the idle block and the power loss, an offered word, and several instances. -/

namespace Sys2Proof.Proofs.Exceptions
open Sys2Proof.Machine Sys2Proof.Proofs.Steps Sys2Proof.Proofs.Encoding Sys2Proof.Proofs.Streams

/-! ### The three events of an edge -/

/-- An edge with command acceptance runs the command (70_reset_and_hazards.md R260). -/
theorem clockEdge_of_commandEvent {s : State} {p : PortsIn} (h : commandEvent s p = true) :
    clockEdge p s = acceptCommand (decode p.cmdWord) s := by
  obtain ⟨done, valid, unreset, idle, empty⟩ := (commandEvent_iff s p).1 h
  rw [clockEdge_ready p s unreset done idle empty, if_pos valid]

/-- An edge with response acceptance empties RSP (R263): the invariant excludes a BUSY block with RSP FULL. -/
theorem clockEdge_of_responseEvent {s : State} {p : PortsIn} (inv : s.handshakeInv) (h : responseEvent s p = true) :
    clockEdge p s = .next s.acceptResponse := by
  obtain ⟨done, unreset, ⟨data, err, full⟩, accepts⟩ := (responseEvent_iff s p).1 h
  have idle : s.busy = none := by
    cases busy : s.busy with
    | none => rfl
    | some f => simpa [full] using inv done (by simp [busy])
  rw [clockEdge_full p s data err unreset done idle full, if_pos accepts]

/-- Settles O37: both handshakes need rst = 0, and they need RSP EMPTY and RSP FULL. -/
theorem edgeEventsExcludeEachOther : Obligations.EdgeEventsExcludeEachOther := by
  refine ⟨fun s p => ⟨?_, ?_, ?_⟩, fun s p => clockEdge_reset p s, fun s p => clockEdge_of_commandEvent,
    fun s p => clockEdge_of_responseEvent⟩
  · rintro ⟨reset, command⟩
    obtain ⟨-, -, unreset, -⟩ := (commandEvent_iff s p).1 command
    exact Bool.false_ne_true (unreset.symm.trans reset)
  · rintro ⟨reset, response⟩
    obtain ⟨-, unreset, -⟩ := (responseEvent_iff s p).1 response
    exact Bool.false_ne_true (unreset.symm.trans reset)
  · rintro ⟨command, response⟩
    obtain ⟨-, -, -, -, empty⟩ := (commandEvent_iff s p).1 command
    obtain ⟨-, -, ⟨data, err, full⟩, -⟩ := (responseEvent_iff s p).1 response
    exact Rsp.noConfusion (empty.symm.trans full)

/-! ### The reserved opcodes -/

theorem isReserved_iff_op (i : Instr) : isReserved i = true ↔ i.op = 0b000#3 ∨ i.op = 0b111#3 := by
  cases i <;> simp [isReserved, Instr.op]

/-- The reserved words are known by their op field (30_encoding.md R66). -/
theorem isReserved_decode_iff (w : CmdWord) :
    isReserved (decode w) = true ↔ cmdOpField w = 0b000#3 ∨ cmdOpField w = 0b111#3 := by
  obtain ⟨op, -⟩ := decodeFields_fields (cmdOpField w) (cmdImmField w)
  rw [isReserved_iff_op, decode, op]

/-- `raise IllegalCommand` (R201). -/
theorem effectState_of_reserved {i : Instr} (s : State) (h : isReserved i = true) :
    effectState i s = { s with rsp := .full 0 true, illegalMark := true } := by
  cases i with
  | reserved0 _ | reserved7 _ => simp [effectState, effectGen, effectData, isReserved]
  | next _ | jump _ | seed _ | seeddef _ | qmin _ | qmax _ => exact absurd h Bool.false_ne_true

/-- Settles O13: the error response, then an edge with response acceptance, then one with command acceptance. -/
theorem reservedOpcodesRaiseIllegalCommand : Obligations.ReservedOpcodesRaiseIllegalCommand := by
  intro w s hop done
  refine ⟨?_, fun idle => ⟨clockEdge_full _ _ 0 true rfl done idle rfl, fun p unreset valid => ?_⟩⟩
  · rw [exec_of_resetDone _ s done, effectState_of_reserved s ((isReserved_decode_iff w).2 hop)]
  · exact clockEdge_of_commandEvent ((commandEvent_iff _ p).2 ⟨done, valid, unreset, idle, rfl⟩)

/-! ### The mark of R201 -/

/-- An edge sets the mark by an accepted reserved opcode, or keeps it. -/
theorem clockEdge_illegalMark {p : PortsIn} {s t : State} (h : clockEdge p s = .next t) :
    t.illegalMark = (s.illegalMark || (commandEvent s p && isReserved (decode p.cmdWord))) := by
  cases command : commandEvent s p with
  | true =>
    obtain ⟨done, -⟩ := (commandEvent_iff s p).1 command
    rw [clockEdge_of_commandEvent command, acceptCommand_eq _ s done] at h
    cases h
    simp
  | false =>
    rw [Bool.false_and, Bool.or_false]
    rcases clockEdge_cases p s t h with
      ⟨-, rfl⟩ | ⟨-, -, -, rfl⟩ | ⟨-, -, f, -, rfl⟩ | ⟨-, -, -, d, e, -, ⟨-, rfl⟩ | ⟨-, rfl⟩⟩ |
      ⟨-, -, -, -, -, rfl⟩ | ⟨unreset, done, idle, empty, valid, -⟩
    case inr.inr.inr.inr.inr =>
      have accepted := (commandEvent_iff s p).2 ⟨done, valid, unreset, idle, empty⟩
      exact absurd (command.symm.trans accepted) Bool.false_ne_true
    all_goals simp

/-- Settles O43: a power loss and idle ports keep the mark, and a word's op field is cmd_op. -/
theorem illegalMarkSetOnlyByReservedOpcode : Obligations.IllegalMarkSetOnlyByReservedOpcode := by
  intro s t h
  rcases step_cases s t h with ⟨inputs, edge⟩ | ⟨p, rest, inputs, edge⟩ | ⟨rest, inputs, rfl⟩
  · simp [inputs, clockEdge_illegalMark edge, commandEvent, PortsIn.idle]
  · have reserved : isReserved (decode p.cmdWord) = true ↔ p.cmdOp = 0b000#3 ∨ p.cmdOp = 0b111#3 := by
      rw [isReserved_decode_iff, PortsIn.cmdWord, cmdOpField_pack]
    have ticked : commandEvent s.tick p = commandEvent s p := rfl
    simp [inputs, clockEdge_illegalMark edge, reserved, ticked]
  · simp [inputs]

/-! ### The one stop -/

/-- An edge answers a next state, but for a command before the first reset (R254). -/
theorem clockEdge_next_or_fault (p : PortsIn) (s : State) :
    (∃ t, clockEdge p s = .next t) ∨
    (clockEdge p s = .fault .commandBeforeReset ∧ s.resetDone = false ∧ p.rst = false ∧ p.cmdValid = true) := by
  cases rst : p.rst with
  | true => exact .inl ⟨_, clockEdge_reset p s rst⟩
  | false =>
    cases done : s.resetDone with
    | false =>
      rw [clockEdge_unreset p s rst done]
      cases valid : p.cmdValid with
      | true => exact .inr ⟨rfl, rfl, rfl, rfl⟩
      | false => exact .inl ⟨s, rfl⟩
    | true =>
      left
      cases busy : s.busy with
      | some f => exact ⟨_, clockEdge_busy p s f rst done busy⟩
      | none =>
        cases rsp : s.rsp with
        | full data err => exact ⟨_, clockEdge_full p s data err rst done busy rsp⟩
        | empty =>
          rw [clockEdge_ready p s rst done busy rsp, acceptCommand_eq _ s done]
          cases p.cmdValid <;> exact ⟨_, rfl⟩

/-- Settles O39: a power loss answers a next state, idle ports offer no command, and an edge's two outcomes. -/
theorem stepStopsOnlyBeforeFirstReset : Obligations.StepStopsOnlyBeforeFirstReset := by
  intro s
  cases inputs : s.inputs with
  | nil =>
    rw [step_nil s inputs]
    refine (clockEdge_next_or_fault PortsIn.idle s.tick).imp_right ?_
    rintro ⟨-, -, -, valid⟩
    exact absurd valid Bool.false_ne_true
  | cons x rest =>
    cases x with
    | powerLoss => exact .inl ⟨_, step_powerLoss s rest inputs⟩
    | clock p =>
      rw [step_clock s p rest inputs]
      refine (clockEdge_next_or_fault p s.tick).imp_right ?_
      rintro ⟨fault, unreset, rst, valid⟩
      exact ⟨fault, unreset, p, rest, rfl, rst, valid⟩

/-! ### The idle block and the power loss -/

/-- Settles O40: the ready edge without a command; the state after a power loss, in which every command faults. -/
theorem idleBlockHoldsPowerLossForgets : Obligations.IdleBlockHoldsPowerLossForgets := by
  refine ⟨fun s p rest ready inputs unreset invalid => ?_, fun s rest inputs => ?_⟩
  · obtain ⟨done, idle, empty⟩ := ready
    rw [step_clock s p rest inputs, clockEdge_ready p s.tick unreset done idle empty, if_neg (by simp [invalid]),
      State.tick_of_cons s _ rest inputs]
  · have remaining : s.tick.losePower.inputs = rest := by simp [inputs]
    have faults (i : Instr) : exec i s.tick.losePower = .fault .commandBeforeReset := by
      rw [exec_eq_command, command_of_not_resetDone _ _ rfl]
    exact ⟨_, step_powerLoss s rest inputs, rfl, remaining, rfl, faults, reset_gen.symm, rfl, rfl, rfl⟩

/-! ### An offered word -/

theorem decodeTableWord_of_lt {nbits w : Nat} (row : w < 2 ^ nbits) (word : w < 2 ^ 67) :
    decodeTableWord nbits w = some (decode (BitVec.ofNat 67 w)) := by
  rw [decodeTableWord, tableNumber, Nat.mod_eq_of_lt row, decodeNumber, if_pos word]

/-- Settles O52: the number is its own row bits, and `withFetchWord` is a ready block with the word offered at its next edge. -/
theorem offeredCommandRunsAtNextEdge : Obligations.OfferedCommandRunsAtNextEdge := by
  intro s nbits w row word
  have inputs : (s.withFetchWord nbits w).inputs = .clock (offerWord (BitVec.ofNat 67 w)) :: s.inputs := by
    rw [State.withFetchWord, tableNumber, Nat.mod_eq_of_lt row]
  exact ⟨decodeTableWord_of_lt row word, _, exec_of_resetDone _ _ rfl, step_offerWord ⟨rfl, rfl, rfl⟩ inputs⟩

/-! ### Several instances -/

/-- A system's step is the named block's own step, put in its place (R215). -/
theorem stepAt_eq_next_iff (y z : System) (k : Fin y.blocks.length) :
    y.stepAt k = .next z ↔ ∃ t, step (y.blocks.get k) = .next t ∧ z = ⟨y.blocks.set k t⟩ := by
  unfold System.stepAt
  cases step (y.blocks.get k) <;> simp [eq_comm]

/-- Settles O50: a system's step through the named block's own, and the entries of a list with one of them set. -/
theorem instancesShareNothing : Obligations.InstancesShareNothing := by
  refine ⟨fun y z k h => ?_, fun y y' k k' z same h => ?_, fun n k hk => ?_⟩
  · obtain ⟨t, ht, rfl⟩ := (stepAt_eq_next_iff y z k).1 h
    exact ⟨List.length_set, ⟨t, ht, List.getElem?_set_self k.isLt⟩, fun j hj => List.getElem?_set_ne hj.symm⟩
  · obtain ⟨t, ht, rfl⟩ := (stepAt_eq_next_iff y z k).1 h
    refine ⟨_, (stepAt_eq_next_iff y' _ k').2 ⟨t, same ▸ ht, rfl⟩, ?_⟩
    exact (List.getElem?_set_self k'.isLt).trans (List.getElem?_set_self k.isLt).symm
  · exact List.getElem?_replicate_of_lt hk

end Sys2Proof.Proofs.Exceptions
end

section
/-! PROOFS. Reset, handshake and latency at the clock edge (70_reset_and_hazards.md R250 to R266): the output ports, the reset edge, the
edge that accepts a command, the block that waits with RSP FULL, and the countdown of a BUSY block over any ports the host may drive. -/

namespace Sys2Proof.Proofs.Handshake
open Sys2Proof.Machine Sys2Proof.Proofs.Steps Sys2Proof.Proofs.Streams Sys2Proof.Proofs.Exceptions

/-! ### The output ports -/

/-- After a reset the handshake outputs are cmd_ready and rsp_valid of the state (R261, R262). -/
theorem outputPorts_of_resetDone {s : State} (rst : Bool) (done : s.resetDone = true) :
    ∃ o : PortsOut, outputPorts s rst = some o ∧ o.cmdReady = s.cmdReady rst ∧ o.rspValid = s.rspValid rst :=
  ⟨_, if_pos done, rfl, rfl⟩

theorem outputPorts_of_not_resetDone {s : State} (rst : Bool) (unreset : s.resetDone = false) : outputPorts s rst = none :=
  if_neg (Bool.eq_false_iff.1 unreset)

theorem cmdReady_of_full {s : State} {data : Word} {err : Bool} (rst : Bool) (full : s.rsp = .full data err) :
    s.cmdReady rst = false := by
  refine Bool.eq_false_iff.2 fun ready => ?_
  obtain ⟨-, -, empty⟩ := (cmdReady_iff s rst).1 ready
  exact Rsp.noConfusion (empty.symm.trans full)

theorem cmdReady_of_rst (s : State) : s.cmdReady true = false := rfl

theorem rspValid_of_rst (s : State) : s.rspValid true = false := rfl

theorem rspValid_of_empty {s : State} (rst : Bool) (empty : s.rsp = .empty) : s.rspValid rst = false := by
  refine Bool.eq_false_iff.2 fun valid => ?_
  obtain ⟨-, data, err, full⟩ := (rspValid_iff s rst).1 valid
  exact Rsp.noConfusion (empty.symm.trans full)

/-- Settles O32: the output cmd_ready is the state's, and its condition is `cmdReady_iff`. -/
theorem cmdReadyExactlyWhenIdleAndEmpty : Obligations.CmdReadyExactlyWhenIdleAndEmpty := by
  intro s rst done
  obtain ⟨o, ports, ready, -⟩ := outputPorts_of_resetDone rst done
  exact ⟨o, ports, ready ▸ cmdReady_iff s rst⟩

/-- Settles O38: every meaning is one frame, which faults; the edge faults by itself. -/
theorem commandBeforeFirstResetFaults : Obligations.CommandBeforeFirstResetFaults := by
  refine fun s unreset => ⟨fun i => ?_, fun rst => outputPorts_of_not_resetDone rst unreset, fun p rest inputs rst valid => ?_⟩
  · rw [exec_eq_command, command_of_not_resetDone s _ unreset]
  · rw [step_clock s p rest inputs, clockEdge_unreset p s.tick rst unreset, if_pos valid]

/-! ### The reset edge -/

theorem step_reset {s : State} {p : PortsIn} {rest : List Input} (inputs : s.inputs = .clock p :: rest) (rst : p.rst = true) :
    step s = .next s.tick.applyReset := by
  rw [step_clock s p rest inputs, clockEdge_reset p s.tick rst]

theorem applyReset_ready (s : State) : s.applyReset.ready := ⟨rfl, rfl, rfl⟩

/-- Settles O30: the reset edge, the ports while rst = 1, and SEEDDEF's construction. -/
theorem resetEdgeLoadsResetState : Obligations.ResetEdgeLoadsResetState := by
  refine ⟨fun s p rest inputs rst => ?_, fun s done => ?_, fun s v done => ⟨_, exec_of_resetDone _ s done, rfl⟩⟩
  · rw [step_reset inputs rst, State.tick_of_cons s _ rest inputs, State.applyReset, defaultSeed]
  · obtain ⟨o, ports, ready, valid⟩ := outputPorts_of_resetDone true done
    exact ⟨o, ports, ready.trans (cmdReady_of_rst s), valid.trans (rspValid_of_rst s)⟩

/-! ### The edge that accepts a command, and the ports without effect -/

theorem step_of_commandEvent {s : State} {p : PortsIn} {rest : List Input} (inputs : s.inputs = .clock p :: rest)
    (accepted : commandEvent s p = true) : step s = acceptCommand (decode p.cmdWord) s.tick :=
  (step_clock s p rest inputs).trans (clockEdge_of_commandEvent (s := s.tick) accepted)

/-- The command event at a ready block. -/
theorem commandEvent_of_ready {s : State} {p : PortsIn} (ready : s.ready) (unreset : p.rst = false) (valid : p.cmdValid = true) :
    commandEvent s p = true := by
  obtain ⟨done, idle, empty⟩ := ready
  exact (commandEvent_iff s p).2 ⟨done, valid, unreset, idle, empty⟩

/-- The edge that accepts a command, for any ports that offer it (R260). -/
theorem step_of_accepted {s : State} {p : PortsIn} {rest : List Input} (ready : s.ready) (inputs : s.inputs = .clock p :: rest)
    (unreset : p.rst = false) (valid : p.cmdValid = true) :
    step s = .next ((effectState (decode p.cmdWord) s.tick).holdResponse (latencyExtra s.lat (decode p.cmdWord))) := by
  obtain ⟨done, -⟩ := id ready
  rw [step_of_commandEvent inputs (commandEvent_of_ready ready unreset valid)]
  exact acceptCommand_eq _ s.tick done

theorem commandEvent_eq_false {s : State} {p : PortsIn} (h : p.cmdValid = false ∨ s.cmdReady p.rst = false) :
    commandEvent s p = false := by
  rcases h with invalid | busy
  · simp [commandEvent, invalid]
  · simp [commandEvent, busy]

/-- A ready block lets no offered command go by (R260). -/
theorem not_cmdValid_of_ready {s : State} {p : PortsIn} (ready : s.ready) (unreset : p.rst = false)
    (no : commandEvent s p = false) : ¬p.cmdValid = true :=
  fun valid => Bool.false_ne_true (no.symm.trans (commandEvent_of_ready ready unreset valid))

/-- Without a command event the command ports have no effect on an edge (R260). -/
theorem clockEdge_eq_of_no_commandEvent {s : State} {p q : PortsIn} (done : s.resetDone = true) (hp : p.rst = false)
    (hq : q.rst = false) (ready : q.rspReady = p.rspReady) (noP : commandEvent s p = false) (noQ : commandEvent s q = false) :
    clockEdge q s = clockEdge p s := by
  cases busy : s.busy with
  | some f => rw [clockEdge_busy q s f hq done busy, clockEdge_busy p s f hp done busy]
  | none =>
    cases rsp : s.rsp with
    | full data err => rw [clockEdge_full q s data err hq done busy rsp, clockEdge_full p s data err hp done busy rsp, ready]
    | empty =>
      have ready : s.ready := ⟨done, busy, rsp⟩
      rw [clockEdge_ready q s hq done busy rsp, clockEdge_ready p s hp done busy rsp,
        if_neg (not_cmdValid_of_ready ready hq noQ), if_neg (not_cmdValid_of_ready ready hp noP)]

/-- Settles O29: the edge with command acceptance, and the edge without. -/
theorem stepRunsAcceptedCommand : Obligations.StepRunsAcceptedCommand := by
  refine fun s p rest inputs done hp => ⟨fun valid ready => ?_, fun noP q hq rspReady noQ => ?_⟩
  · have accepted : commandEvent s p = true := by simp [commandEvent, done, valid, ready]
    rw [step_of_commandEvent inputs accepted, State.tick_of_cons s _ rest inputs]
    rfl
  · have sameRst : s.cmdReady q.rst = s.cmdReady p.rst := by rw [hq, hp]
    rw [step_clock s p rest inputs, step_clock _ q rest rfl, State.tick_of_cons s _ rest inputs]
    exact clockEdge_eq_of_no_commandEvent done hp hq rspReady (commandEvent_eq_false noP)
      (commandEvent_eq_false (sameRst ▸ noQ))

/-- Settles O31: the reset edge leaves a ready block, whose next edge accepts the offered command. -/
theorem commandAcceptedRightAfterReset : Obligations.CommandAcceptedRightAfterReset := by
  intro s p q rest inputs hp hq
  have ready := applyReset_ready s.tick
  have later : s.tick.applyReset.inputs = .clock q :: rest := by simp [inputs]
  obtain ⟨o, ports, cmdReady, -⟩ := outputPorts_of_resetDone (s := s.tick.applyReset) q.rst rfl
  refine ⟨_, step_reset inputs hp, rfl, rfl, ⟨o, ports, ?_⟩, fun valid => ⟨_, exec_of_resetDone _ _ rfl, ?_⟩⟩
  · exact cmdReady.trans ((cmdReady_iff _ _).2 ⟨hq, rfl, rfl⟩)
  · rw [step_of_accepted ready later hq valid, State.tick_of_cons _ _ rest later]
    rfl

/-! ### A block with RSP FULL -/

/-- The handshake invariant leaves no command in flight while RSP is FULL. -/
theorem idle_of_full {s : State} {data : Word} {err : Bool} (inv : s.handshakeInv) (done : s.resetDone = true)
    (full : s.rsp = .full data err) : s.busy = none := by
  cases busy : s.busy with
  | none => rfl
  | some f =>
    have empty : s.rsp = .empty := inv done (by rw [busy, Option.isSome_some])
    exact Rsp.noConfusion (empty.symm.trans full)

/-- While RSP is EMPTY, rsp_ready has no effect on an edge, before the first reset too (R263). -/
theorem clockEdge_eq_of_empty {s : State} {p q : PortsIn} (rst : q.rst = p.rst) (valid : q.cmdValid = p.cmdValid)
    (word : q.cmdWord = p.cmdWord) (empty : s.rsp = .empty) : clockEdge q s = clockEdge p s := by
  cases hp : p.rst with
  | true => rw [clockEdge_reset q s (rst.trans hp), clockEdge_reset p s hp]
  | false =>
    have hq := rst.trans hp
    cases done : s.resetDone with
    | false => rw [clockEdge_unreset q s hq done, clockEdge_unreset p s hp done, valid]
    | true =>
      cases busy : s.busy with
      | some f => rw [clockEdge_busy q s f hq done busy, clockEdge_busy p s f hp done busy]
      | none => rw [clockEdge_ready q s hq done busy empty, clockEdge_ready p s hp done busy empty, valid, word]

/-- Settles O34: the edge that accepts the response, and rsp_ready at an edge with RSP EMPTY. -/
theorem acceptedResponseEmptiesRsp : Obligations.AcceptedResponseEmptiesRsp := by
  refine ⟨fun s data err p rest done inv full inputs unreset ready => ?_, fun s p rest empty _ => ?_⟩
  · have idle := idle_of_full inv done full
    exact ⟨step_acceptResponse done idle full inputs unreset ready, (cmdReady_iff _ _).2 ⟨rfl, idle, rfl⟩⟩
  · rw [step_clock _ _ rest rfl, step_clock _ _ rest rfl]
    exact clockEdge_eq_of_empty rfl rfl rfl empty

/-! ### Edges and runs over ports with a common property -/

/-- A step that brings no power loss is an edge; what the next input and the idle ports have in common holds of its ports. -/
theorem exists_step_eq_clockEdge {P : PortsIn → Prop} {s : State} (idle : P PortsIn.idle)
    (driven : ∀ x ∈ s.inputs.take 1, ∃ q : PortsIn, x = .clock q ∧ P q) :
    ∃ p : PortsIn, P p ∧ step s = clockEdge p s.tick := by
  cases inputs : s.inputs with
  | nil => exact ⟨_, idle, step_nil s inputs⟩
  | cons x rest =>
    obtain ⟨q, rfl, hq⟩ := driven x (by simp [inputs])
    exact ⟨q, hq, step_clock s q rest inputs⟩

theorem elapsed_zero (s : State) : elapsed 0 (s.inputs.drop 0) s = s := rfl

/-- The `n` edges after the next one. -/
theorem elapsed_tick (n : Nat) (s : State) :
    elapsed n (s.tick.inputs.drop n) s.tick = elapsed (n + 1) (s.inputs.drop (n + 1)) s := by
  simp [elapsed, State.tick, Nat.add_assoc, Nat.add_comm 1 n]

/-! ### The host that waits -/

theorem exists_ports_of_inputHostWaits {x : Input} (h : inputHostWaits x) :
    ∃ q : PortsIn, x = .clock q ∧ q.rst = false ∧ q.rspReady = false := by
  cases x with
  | clock q => exact ⟨q, rfl, h⟩
  | powerLoss => exact h.elim

/-- A step over a waiting host keeps the block with its response (R262). -/
theorem step_of_hostWaits {s : State} {data : Word} {err : Bool} (done : s.resetDone = true) (idle : s.busy = none)
    (full : s.rsp = .full data err) (waits : ∀ x ∈ s.inputs.take 1, inputHostWaits x) : step s = .next s.tick := by
  obtain ⟨p, ⟨unreset, ready⟩, edge⟩ := exists_step_eq_clockEdge (P := fun q => q.rst = false ∧ q.rspReady = false) ⟨rfl, rfl⟩
    fun x hx => exists_ports_of_inputHostWaits (waits x hx)
  rw [edge, clockEdge_full p s.tick data err unreset done idle full, if_neg (by simp [ready])]

/-- The block waits through any number of edges (R264). -/
theorem run_of_hostWaits {n : Nat} {s : State} {data : Word} {err : Bool} (done : s.resetDone = true) (idle : s.busy = none)
    (full : s.rsp = .full data err) (waits : ∀ x ∈ s.inputs, inputHostWaits x) :
    Host.Core.run Sys2Proof.core n s = .next (elapsed n (s.inputs.drop n) s) := by
  induction n generalizing s with
  | zero => rfl
  | succ n ih =>
    have first : step s = .next s.tick := step_of_hostWaits done idle full fun x hx => waits x (List.mem_of_mem_take hx)
    have later := ih (s := s.tick) done idle full fun x hx => waits x (List.mem_of_mem_tail hx)
    rw [run_succ_of_step n s _ first, later, elapsed_tick]

/-- Settles O33: the ports by RSP, and the step over a waiting host, with an input to come or with none. -/
theorem responseShownAndHeld : Obligations.ResponseShownAndHeld := by
  refine ⟨fun s data err => EqualHardware.outputPorts_full, fun s rst done empty => ?_,
    fun s data err x rest done inv full inputs waits => ?_, fun s data err done inv full inputs => ?_⟩
  · obtain ⟨o, ports, -, valid⟩ := outputPorts_of_resetDone rst done
    exact ⟨o, ports, valid.trans (rspValid_of_empty rst empty)⟩
  · rw [step_of_hostWaits done (idle_of_full inv done full) full (by simpa [inputs] using waits),
      State.tick_of_cons s x rest inputs]
  · rw [step_of_hostWaits done (idle_of_full inv done full) full (by simp [inputs]), State.tick_of_nil s inputs]

/-- Settles O35: the run over a waiting host keeps RSP, and S0 and S1. -/
theorem blockWaitsForHostForever : Obligations.BlockWaitsForHostForever := by
  intro n s data err done inv full waits
  exact ⟨_, run_of_hostWaits done (idle_of_full inv done full) full waits, full, rfl, cmdReady_of_full false full⟩

/-! ### The latency -/

/-- No reset and no power loss comes at the first `n` inputs. -/
def undisturbed (n : Nat) (l : List Input) : Prop := ∀ x ∈ l.take n, ∃ q : PortsIn, x = .clock q ∧ q.rst = false

theorem undisturbed_add {m n : Nat} {l : List Input} :
    undisturbed (m + n) l ↔ undisturbed m l ∧ undisturbed n (l.drop m) := by
  simp only [undisturbed, List.take_add, List.mem_append, or_imp, forall_and]

/-- The next input, and the later ones. -/
theorem undisturbed_succ {n : Nat} {l : List Input} : undisturbed (n + 1) l ↔ undisturbed 1 l ∧ undisturbed n l.tail := by
  rw [Nat.add_comm, undisturbed_add, List.drop_one]

/-- An undisturbed BUSY block goes on with its command, whatever else the host drives (10_state.md R31). -/
theorem step_of_busy {s : State} {f : InFlight} (done : s.resetDone = true) (busy : s.busy = some f)
    (h : undisturbed 1 s.inputs) : step s = .next (s.tick.advanceBusy f) := by
  obtain ⟨p, unreset, edge⟩ := exists_step_eq_clockEdge (P := fun q => q.rst = false) rfl h
  rw [edge, clockEdge_busy p s.tick f unreset done busy]

/-- The countdown: `n` undisturbed edges leave `n` fewer, and keep everything else. -/
theorem run_countdown {n m : Nat} {s : State} {data : Word} {err : Bool} (done : s.resetDone = true)
    (busy : s.busy = some ⟨data, err, m + n⟩) (h : undisturbed n s.inputs) :
    Host.Core.run Sys2Proof.core n s = .next { elapsed n (s.inputs.drop n) s with busy := some ⟨data, err, m⟩ } := by
  induction n generalizing s with
  | zero =>
    have kept : s.busy = some ⟨data, err, m⟩ := busy
    rw [elapsed_zero, ← kept]
    rfl
  | succ n ih =>
    obtain ⟨next, later⟩ := undisturbed_succ.1 h
    have later := ih (s := { s.tick with busy := some ⟨data, err, m + n⟩ }) done rfl later
    rw [run_succ_of_step n s _ (step_of_busy done busy next)]
    exact later.trans (congrArg (fun t => Host.Outcome.next { t with busy := some ⟨data, err, m⟩ }) (elapsed_tick n s))

/-- A fresh response held back for `n` edges stands in RSP after `n` undisturbed edges, be `n` 0 or not (R266). -/
theorem run_holdResponse {n : Nat} {s : State} {data : Word} {err : Bool} (done : s.resetDone = true) (idle : s.busy = none)
    (full : s.rsp = .full data err) (h : undisturbed n s.inputs) :
    Host.Core.run Sys2Proof.core n (s.holdResponse n) = .next (elapsed n (s.inputs.drop n) s) := by
  cases n with
  | zero =>
    rw [State.holdResponse_zero, elapsed_zero]
    rfl
  | succ n =>
    obtain ⟨before, due⟩ := undisturbed_add.1 h
    have countdown := run_countdown (s := { s with rsp := .empty, busy := some ⟨data, err, 0 + n⟩ }) done rfl before
    rw [Nat.zero_add] at countdown
    have last : step { elapsed n (s.inputs.drop n) s with rsp := .empty, busy := some ⟨data, err, 0⟩ }
        = .next (elapsed (n + 1) (s.inputs.drop (n + 1)) s) := by
      refine Eq.trans (step_of_busy done rfl due) ?_
      simp [elapsed, State.tick, full, idle, Nat.add_assoc]
    rw [State.holdResponse_succ s n data err full, run_add countdown]
    exact run_succ_of_step 0 _ _ last

/-- After fewer edges the block is still BUSY, with RSP EMPTY (R261, R266). -/
theorem run_holdResponse_of_lt {k n : Nat} {s : State} {data : Word} {err : Bool} (done : s.resetDone = true)
    (full : s.rsp = .full data err) (h : undisturbed n s.inputs) (lt : k < n) :
    ∃ t : State, Host.Core.run Sys2Proof.core k (s.holdResponse n) = .next t ∧ t.rsp = .empty ∧ t.busy.isSome = true := by
  obtain ⟨m, rfl⟩ := Nat.exists_eq_add_of_lt lt
  obtain ⟨before, -⟩ := undisturbed_add.1 (Nat.add_assoc k m 1 ▸ h)
  rw [Nat.add_comm k m, State.holdResponse_succ s (m + k) data err full]
  exact ⟨_, run_countdown done rfl before, rfl, rfl⟩

/-- Settles O36: the accepting edge, then the response held back for L - 1 edges; the latencies stand in a step's frame. -/
theorem responseEntersAfterLatency : Obligations.ResponseEntersAfterLatency := by
  refine ⟨fun s p rest u ready inputs unreset valid command calm => ?_,
    fun lat i => ⟨Nat.le_add_left 1 _, by cases i <;> rfl⟩, fun s t h => (step_frame s t h).1⟩
  obtain ⟨done, idle, -⟩ := id ready
  obtain ⟨-, rfl⟩ := (exec_eq_next_iff _ s u).1 command
  have accept := step_of_accepted ready inputs unreset valid
  have calm : undisturbed (latencyExtra s.lat (decode p.cmdWord)) (effectState (decode p.cmdWord) s.tick).inputs := by
    rwa [effectState_inputs, State.tick_inputs, inputs, List.tail_cons]
  refine ⟨fun n one_le lt => ?_, ?_⟩
  · obtain ⟨k, rfl⟩ := Nat.exists_eq_add_of_le' one_le
    rw [run_succ_of_step k s _ accept]
    exact run_holdResponse_of_lt (s := effectState _ s.tick) done rfl calm (Nat.lt_of_succ_lt_succ lt)
  · rw [latencyCycles, run_succ_of_step _ s _ accept]
    exact ⟨_, run_holdResponse (s := effectState _ s.tick) done idle rfl calm, rfl, idle, rfl, List.drop_tail⟩

end Sys2Proof.Proofs.Handshake
end
